-- ==== Sys2Proof/Word.lean ====
section
/-! DEFINITION. The unit of every space of the block: the byte of rule R7 (00_scope.md). -/

namespace Sys2Proof

/-- A byte is 8 bits, an unsigned integer 0 .. 255 (rule R7). -/
abbrev Byte := BitVec 8

/-- The 32-bit head word of a host command packet (rule R71). -/
abbrev HeadWord := BitVec 32

/-- The 16-bit argument field `A` of a head word, and the width of the value port (rules R6, R71). -/
abbrev Arg16 := BitVec 16

end Sys2Proof
end

