-- ==== Sys2Proof/Config.lean ====
section
/-! DEFINITION. The parameters of the block: the straps of one instance (rule R5) and the constant tables and
parameters of one design (rule R6).  The types stand here; the values that the spec leaves OPEN are constants with no
body, so that nothing can be proved about them. -/

namespace Sys2Proof.Config

/-- The protocol variant of an instance (rules R5, R11): `VARIANT = 0` is Compact, `VARIANT = 1` is Addressed. -/
inductive Variant where
  | compact
  | addressed
deriving DecidableEq, Repr, Inhabited

/-- The three strap inputs `cfg_variant`, `cfg_devid`, `cfg_nch` that the release of reset samples (rules R5, R230). -/
structure Straps where
  variant : Variant
  devid : Byte
  nch : Byte
deriving DecidableEq, Repr, Inhabited

/-- One row of `CMDTAB`: the opcode byte, its operand count and its response length (rules R6, R15). -/
structure CmdRow where
  value : Byte
  nops : BitVec 4
  nresp : BitVec 2
deriving DecidableEq, Repr, Inhabited

/-- One entry of a parameter table: an identifier with the `(offset, width)` pair it stands for (rule R16). -/
structure ParamRow where
  id : Byte
  offset : BitVec 16
  width : Byte
deriving DecidableEq, Repr, Inhabited

/-- `ERR_SHIFT`: by 7 or by 8 places (rules R6, R185). -/
inductive ErrShift where
  | seven
  | eight
deriving DecidableEq, Repr, Inhabited

/-- The parameters of a design that the spec leaves OPEN (93_implementation_defined.md U8): the open cells of `CMDTAB`,
the two parameter tables as association lists, `ERR_SHIFT`, and `TIMEOUT`, an uninterpreted token that goes to the
transport with every read (rule R14).  What the spec fixes of `CMDTAB` is in `Sys2Proof.Machine.cmdtab`. -/
structure Tables where
  opcSetSpeed : Byte
  opcSetAcceleration : Byte
  opcGetPosition : Byte
  opcGetMovingState : Byte
  opcGetErrors : Byte
  opcGoHome : Byte
  getScriptStatus : CmdRow
  stopScript : CmdRow
  restartScript : CmdRow
  restartScriptWithParameter : CmdRow
  devparams : List ParamRow
  fields : List ParamRow
  errShift : ErrShift
  timeout : Nat
deriving DecidableEq, Repr, Inhabited

/-- The strap inputs at the release of the reset that `State.reset` stands for: OPEN (rule R5).  Free: log entry 1. -/
opaque straps : Straps

/-- The tables of the design: OPEN (rules R6, R15, R16, R185; U8).  Free: log entry 2. -/
opaque tables : Tables

/-- What a 16-bit zero extension gives outside its domain `0 <= v < 2^16` (rule R7 requires the bound; only a `FIELDS`
row that breaks the bound of rule R95 can get there).  Free: log entry 3. -/
opaque zextOutOfDomain : Nat → BitVec 16

end Sys2Proof.Config
end

