-- ==== Sys2Proof/Machine/CodeTable.lean ====
section
/-! DEFINITION. The constants of rule R4, the constant tables of rules R15 to R17 and the look-ups in them. -/

namespace Sys2Proof.Machine

open Sys2Proof.Config

/-- `LEAD`, the fixed lead byte of an Addressed frame (rule R4). -/
def lead : Byte := 0xAA

/-- `MASK7` (rule R4). -/
def mask7 : Byte := 0x7F

/-- `P16_MAX`, the largest Packed16 value (rule R4). -/
def p16Max : Nat := 16383

/-- `CH_STRIDE` (rule R4). -/
def chStride : Nat := 9

/-- `CH_BASE` (rule R4). -/
def chBase : Nat := 30

/-- `MAXOPS` (rule R6). -/
def maxOps : Nat := 15

/-- `TXCAP = 3 + MAXOPS` (rule R6). -/
def txCap : Nat := 3 + maxOps

/-- `MAXRESP`, the capacity of `RXBUF` (rule R6). -/
def maxResp : Nat := 3

/-- `OPC(SET_TARGET)`, the one opcode value the document gives (rule R4). -/
def opcSetTarget : Byte := 0x84

/-- `CMDTAB`, 11 rows `(value, nops, nresp)` in the order of rule R15: what that rule fixes, with the OPEN cells from `t`. -/
def cmdtab (t : Tables) : List CmdRow :=
  [ ⟨opcSetTarget, 3, 0⟩,
    ⟨t.opcSetSpeed, 3, 0⟩,
    ⟨t.opcSetAcceleration, 3, 0⟩,
    ⟨t.opcGetPosition, 1, 2⟩,
    ⟨t.opcGetMovingState, 0, 1⟩,
    ⟨t.opcGetErrors, 0, 2⟩,
    ⟨t.opcGoHome, 0, 0⟩,
    t.getScriptStatus,
    t.stopScript,
    t.restartScript,
    t.restartScriptWithParameter ]

/-- Name to value: the row of index `idx`, none for an index outside `0 .. 10` (rules R128, R130). -/
def rowOf (t : Tables) (idx : Nat) : Option CmdRow := (cmdtab t)[idx]?

/-- Value to name: the index of the row with this value, compared on all 8 bits (rule R131; log entry 20). -/
def indexOf (t : Tables) (byte : Byte) : Option Nat := (cmdtab t).findIdx? (fun r => r.value == byte)

/-- Look-up in a parameter table, a partial function from identifiers (rule R16; log entry 16). -/
def paramOf (rows : List ParamRow) (id : Byte) : Option ParamRow := rows.find? (fun r => r.id == id)

/-- The shift that `ERR_SHIFT` stands for (rule R185). -/
def errShiftAmount : ErrShift → Nat
  | .seven => 7
  | .eight => 8

/-- `ERRTAB`: the nine conditions the device reports about itself (rule R17). -/
inductive ErrorCondition where
  | serialSignal
  | serialOverrun
  | serialBufferFull
  | serialCrc
  | serialProtocol
  | serialTimeout
  | scriptStack
  | scriptCallStack
  | scriptProgramCounter
deriving DecidableEq, Repr

/-- The bit of each condition in the error word (rule R17). -/
def conditionBit : ErrorCondition → Nat
  | .serialSignal => 0
  | .serialOverrun => 1
  | .serialBufferFull => 2
  | .serialCrc => 3
  | .serialProtocol => 4
  | .serialTimeout => 5
  | .scriptStack => 6
  | .scriptCallStack => 7
  | .scriptProgramCounter => 8

/-- The mask of each condition in the error word: name `i` is mask `1 << i` (rules R17, R128). -/
def conditionMask (c : ErrorCondition) : BitVec 16 := 1#16 <<< conditionBit c

/-- The reserved bits 9 to 15 of the error word (rules R17, R69). -/
def reservedMask : BitVec 16 := 0xFE00

/-- The number of the strap value (rule R11). -/
def variantCode : Variant → BitVec 1
  | .compact => 0
  | .addressed => 1

end Sys2Proof.Machine
end

