-- ==== Sys2Proof/Machine/Operands.lean ====
section
/-! DEFINITION. The operand forms: the value port (rule R107), Packed16 (rules R105 to R108), the per-channel address
(rule R92), the two frame formats (rules R61, R62, R121) and the 14-bit operand lists (rule R64). -/

namespace Sys2Proof.Machine

open Sys2Proof.Config

/-- `sext_16(A)`: the value operand of PACK16 and of the SET operations (rule R107). -/
def operandValue (a : Arg16) : Int := a.toInt

/-- The test `0 <= v <= 16383` (rules R106, R107). -/
def representable (v : Int) : Bool := decide (0 ≤ v) && decide (v ≤ (p16Max : Int))

/-- `v[6:0]` as a byte, the low half of Packed16 (rule R106). -/
def packLow (v : Nat) : Byte := BitVec.ofNat 8 (v &&& 0x7F)

/-- `v[13:7]` as a byte, the high half of Packed16 (rule R106). -/
def packHigh (v : Nat) : Byte := BitVec.ofNat 8 ((v >>> 7) &&& 0x7F)

/-- `pack16`, low part first (rules R42, R106). -/
def pack16 (v : Nat) : List Byte := [packLow v, packHigh v]

/-- `unpack16(byte0, byte1) = byte0 | (byte1 << 7)` on all 8 bits of each byte (rule R108). -/
def unpack16 (b0 b1 : Byte) : Nat := b0.toNat ||| (b1.toNat <<< 7)

/-- A byte pair of Packed16 is canonical when both bytes are below `0x80` (rule R105). -/
def canonical (b0 b1 : Byte) : Bool := decide (b0.toNat < 0x80) && decide (b1.toNat < 0x80)

/-- `zext_16(v)`, which requires `v < 2^16` (rule R7); outside that domain the value is free (log entry 3). -/
def zext16 (v : Nat) : BitVec 16 := if v < 65536 then BitVec.ofNat 16 v else Config.zextOutOfDomain v

/-- The per-channel address function (rule R92), exact on non-negative integers (rule R95). -/
def servoOffset (c fieldOffset : Nat) : Nat := c * chStride + chBase + fieldOffset

/-- The operand list `[ch] ++ pack16(v)` of the three SET operations (rules R64, R141). -/
def channelValueOps (ch : Byte) (a : Arg16) : List Byte := ch :: pack16 (operandValue a).toNat

/-- The prefix of a frame: `[opcode]`, or `[0xAA, DEVID & 0x7F, opcode & 0x7F]` (rules R61, R62). -/
def framePrefix (v : Variant) (devid opc : Byte) : List Byte :=
  match v with
  | .compact => [opc]
  | .addressed => [lead, devid &&& mask7, opc &&& mask7]

/-- The framing function `encode(opc, ops)`: prefix, then the operand bytes unchanged (rules R63, R121). -/
def frame (v : Variant) (devid opc : Byte) (ops : List Byte) : List Byte := framePrefix v devid opc ++ ops

end Sys2Proof.Machine
end

