-- ==== Sys2Proof/Syntax.lean ====
section
/-! DEFINITION. The operations of the block, one constructor for each of the 20 mnemonics of spec/opcode_table.json, and
the command packet that carries one over the host port.  A mnemonic's COMPACT and ADDRESSED rows are the two frames its
one operation can emit (rule R60: the strap `VARIANT` chooses); they are read and written in `Sys2Proof.Decode`. -/

namespace Sys2Proof

/-- A host operation (rules R72, R75) or one of the four script pseudo-operations (rule R76).  A value operand is the
raw 16-bit field `A`, which the operation reads as two's complement (rule R107). -/
inductive Instr where
  | pack16 (a : Arg16)
  | unpack16 (b0 b1 : Byte)
  | addrDev (pid : Byte)
  | addrServo (ch fid : Byte)
  | encode (opc : Byte) (ops : List Byte)
  | codeOf (idx : Byte)
  | nameOf (byte : Byte)
  | decErrors (b0 b1 : Byte)
  | xfer (opc : Byte) (ops : List Byte) (nresp : BitVec 2)
  | setTarget (ch : Byte) (a : Arg16)
  | setSpeed (ch : Byte) (a : Arg16)
  | setAcceleration (ch : Byte) (a : Arg16)
  | getPosition (ch : Byte)
  | getMovingState
  | getErrors
  | goHome
  | getScriptStatus (ops : List Byte)
  | stopScript (ops : List Byte)
  | restartScriptAtSubroutine (ops : List Byte)
  | restartScriptAtSubroutineWithParameter (ops : List Byte)
deriving DecidableEq, Repr

/-- A command packet: a 32-bit head word followed by operand bytes (rule R71). -/
structure Packet where
  head : HeadWord
  ops : List Byte
deriving DecidableEq, Repr

end Sys2Proof
end

