-- ==== Sys2Proof/WellFormed.lean ====
section
/-! DEFINITION. Well-formed operations (an operand list fits the `OPLEN` field), packets (as many operand bytes as the
head says) and tables (the premises that rules R15, R16 and R95 put on a configuration). -/

namespace Sys2Proof

/-- An operand list has at most `MAXOPS` bytes (rules R6, R71, R123). -/
abbrev operandsFit (ops : List Byte) : Prop := ops.length ≤ Machine.maxOps

/-- The checks on an operation: every operand list it carries fits its packet. -/
abbrev wellFormed : Instr → Prop
  | .encode _ ops => operandsFit ops
  | .xfer _ ops _ => operandsFit ops
  | .getScriptStatus ops => operandsFit ops
  | .stopScript ops => operandsFit ops
  | .restartScriptAtSubroutine ops => operandsFit ops
  | .restartScriptAtSubroutineWithParameter ops => operandsFit ops
  | .pack16 _ => True
  | .unpack16 _ _ => True
  | .addrDev _ => True
  | .addrServo _ _ => True
  | .codeOf _ => True
  | .nameOf _ => True
  | .decErrors _ _ => True
  | .setTarget _ _ => True
  | .setSpeed _ _ => True
  | .setAcceleration _ _ => True
  | .getPosition _ => True
  | .getMovingState => True
  | .getErrors => True
  | .goHome => True

/-- A packet carries exactly the number of operand bytes its `OPLEN` field says (rule R71). -/
abbrev packetWellFormed (p : Packet) : Prop := p.ops.length = (p.head.extractLsb' 24 4).toNat

/-- The 11 opcode values are pairwise different, so that the code table is bidirectional (rule R15). -/
abbrev opcodesDistinct (t : Config.Tables) : Prop := ((Machine.cmdtab t).map (·.value)).Nodup

/-- They stay different after the mask of the Addressed format, which no rule requires (rule R15, rule R125). -/
abbrev maskedOpcodesDistinct (t : Config.Tables) : Prop :=
  ((Machine.cmdtab t).map (fun r => r.value &&& Machine.mask7)).Nodup

/-- A parameter table is a partial function with widths 1 .. 255 (rule R16). -/
abbrev paramTableWellFormed (rows : List Config.ParamRow) : Prop :=
  (rows.map (·.id)).Nodup ∧ ∀ r ∈ rows, r.width ≠ 0

/-- Every field offset leaves the result of ADDR_SERVO below 2^16 (rule R95). -/
abbrev fieldOffsetsFit (t : Config.Tables) : Prop := ∀ r ∈ t.fields, r.offset.toNat ≤ 63219

/-- The premises of rule R233 (e) on a configuration. -/
abbrev tablesWellFormed (t : Config.Tables) : Prop :=
  opcodesDistinct t ∧ paramTableWellFormed t.devparams ∧ paramTableWellFormed t.fields ∧ fieldOffsetsFit t

end Sys2Proof
end

