-- ==== Sys2Proof/Decode.lean ====
section
/-! DEFINITION. The two encodings of 30_encoding.md, each with its decoder and its encoder: the host command packet
(rules R71 to R73) and the wire frame (rules R60 to R65). -/

namespace Sys2Proof

open Sys2Proof.Machine

/-- Why the host port's decoder rejects: the bytes that follow the head word are not `OPLEN` bytes, so they and the head
are no packet of rule R71. -/
inductive DecodeError where
  | operandCount
deriving DecidableEq, Repr

/-- Field `OP`, bits 31:28 (rule R71). -/
def opField (h : HeadWord) : BitVec 4 := h.extractLsb' 28 4

/-- Field `OPLEN`, bits 27:24 (rule R71). -/
def oplenField (h : HeadWord) : BitVec 4 := h.extractLsb' 24 4

/-- Field `B`, bits 23:16 (rule R71). -/
def bField (h : HeadWord) : Byte := h.extractLsb' 16 8

/-- Field `A`, bits 15:0 (rule R71). -/
def aField (h : HeadWord) : Arg16 := h.extractLsb' 0 16

/-- `A[7:0]` (rule R72). -/
def argLow8 (a : Arg16) : Byte := a.extractLsb' 0 8

/-- `A[1:0]` (rule R72). -/
def argLow2 (a : Arg16) : BitVec 2 := a.extractLsb' 0 2

/-- The operation of a head word with the operand bytes given: the 16 select codes of rule R72, none of them reserved;
fields that an operation does not use are ignored (rule R73). -/
def decodeHead (h : HeadWord) (ops : List Byte) : Instr :=
  match (opField h).toNat with
  | 0x0 => .pack16 (aField h)
  | 0x1 => .unpack16 (bField h) (argLow8 (aField h))
  | 0x2 => .addrDev (bField h)
  | 0x3 => .addrServo (bField h) (argLow8 (aField h))
  | 0x4 => .encode (bField h) ops
  | 0x5 => .codeOf (bField h)
  | 0x6 => .nameOf (bField h)
  | 0x7 => .decErrors (bField h) (argLow8 (aField h))
  | 0x8 => .xfer (bField h) ops (argLow2 (aField h))
  | 0x9 => .setTarget (bField h) (aField h)
  | 0xA => .setSpeed (bField h) (aField h)
  | 0xB => .setAcceleration (bField h) (aField h)
  | 0xC => .getPosition (bField h)
  | 0xD => .getMovingState
  | 0xE => .getErrors
  | _ => .goHome

/-- The decoder of the host port, total on any head word and bytes. -/
def decode (p : Packet) : Except DecodeError Instr :=
  if packetWellFormed p then .ok (decodeHead p.head p.ops) else .error .operandCount

/-- A head word from its four fields (rule R71). -/
def headWord (op : BitVec 4) (oplen : Nat) (b : Byte) (a : Arg16) : HeadWord :=
  op ++ BitVec.ofNat 4 oplen ++ b ++ a

/-- The packet of a script pseudo-operation: an XFER of its `CMDTAB` row (rule R76). -/
def aliasPacket (r : Config.CmdRow) (ops : List Byte) : Packet :=
  ⟨headWord 0x8 ops.length r.value (r.nresp.setWidth 16), ops⟩

/-- The encoder of the host port (rule R72), unused fields zero.  The four pseudo-operations encode as the XFER they stand
for, from the rows of `t` (rule R76). -/
def encode (t : Config.Tables) : Instr → Packet
  | .pack16 a => ⟨headWord 0x0 0 0 a, []⟩
  | .unpack16 b0 b1 => ⟨headWord 0x1 0 b0 (b1.setWidth 16), []⟩
  | .addrDev pid => ⟨headWord 0x2 0 pid 0, []⟩
  | .addrServo ch fid => ⟨headWord 0x3 0 ch (fid.setWidth 16), []⟩
  | .encode opc ops => ⟨headWord 0x4 ops.length opc 0, ops⟩
  | .codeOf idx => ⟨headWord 0x5 0 idx 0, []⟩
  | .nameOf byte => ⟨headWord 0x6 0 byte 0, []⟩
  | .decErrors b0 b1 => ⟨headWord 0x7 0 b0 (b1.setWidth 16), []⟩
  | .xfer opc ops nresp => ⟨headWord 0x8 ops.length opc (nresp.setWidth 16), ops⟩
  | .setTarget ch a => ⟨headWord 0x9 0 ch a, []⟩
  | .setSpeed ch a => ⟨headWord 0xA 0 ch a, []⟩
  | .setAcceleration ch a => ⟨headWord 0xB 0 ch a, []⟩
  | .getPosition ch => ⟨headWord 0xC 0 ch 0, []⟩
  | .getMovingState => ⟨headWord 0xD 0 0 0, []⟩
  | .getErrors => ⟨headWord 0xE 0 0 0, []⟩
  | .goHome => ⟨headWord 0xF 0 0 0, []⟩
  | .getScriptStatus ops => aliasPacket t.getScriptStatus ops
  | .stopScript ops => aliasPacket t.stopScript ops
  | .restartScriptAtSubroutine ops => aliasPacket t.restartScript ops
  | .restartScriptAtSubroutineWithParameter ops => aliasPacket t.restartScriptWithParameter ops

/-- What the assembler makes of a pseudo-operation: an XFER of its row (rule R76); a core operation stays itself. -/
def expand (t : Config.Tables) (i : Instr) : Instr :=
  match i with
  | .getScriptStatus ops => .xfer t.getScriptStatus.value ops t.getScriptStatus.nresp
  | .stopScript ops => .xfer t.stopScript.value ops t.stopScript.nresp
  | .restartScriptAtSubroutine ops => .xfer t.restartScript.value ops t.restartScript.nresp
  | .restartScriptAtSubroutineWithParameter ops =>
    .xfer t.restartScriptWithParameter.value ops t.restartScriptWithParameter.nresp
  | other => other

/-- The opcode byte and operand bytes that an operation puts on the wire: the wire command map of rules R65 and R141.
None for a pure operation, and for a value that is not encoded at all (rule R64). -/
def wireCommand (t : Config.Tables) (i : Instr) : Option (Byte × List Byte) :=
  match i with
  | .setTarget ch a => if representable (operandValue a) then some (opcSetTarget, channelValueOps ch a) else none
  | .setSpeed ch a => if representable (operandValue a) then some (t.opcSetSpeed, channelValueOps ch a) else none
  | .setAcceleration ch a =>
    if representable (operandValue a) then some (t.opcSetAcceleration, channelValueOps ch a) else none
  | .getPosition ch => some (t.opcGetPosition, [ch])
  | .getMovingState => some (t.opcGetMovingState, [])
  | .getErrors => some (t.opcGetErrors, [])
  | .goHome => some (t.opcGoHome, [])
  | .xfer opc ops _ => some (opc, ops)
  | .getScriptStatus ops => some (t.getScriptStatus.value, ops)
  | .stopScript ops => some (t.stopScript.value, ops)
  | .restartScriptAtSubroutine ops => some (t.restartScript.value, ops)
  | .restartScriptAtSubroutineWithParameter ops => some (t.restartScriptWithParameter.value, ops)
  | .pack16 _ => none
  | .unpack16 _ _ => none
  | .addrDev _ => none
  | .addrServo _ _ => none
  | .encode _ _ => none
  | .codeOf _ => none
  | .nameOf _ => none
  | .decErrors _ _ => none

/-- The encoder of the wire: the frame of an operation in the given format (rules R61, R62, R65). -/
def wireFrame (t : Config.Tables) (v : Config.Variant) (devid : Byte) (i : Instr) : Option (List Byte) :=
  (wireCommand t i).map (fun c => frame v devid c.1 c.2)

/-- A value operand back from its two Packed16 bytes, only if they are canonical (rules R64, R105). -/
def valueOfPair (lsb msb : Byte) : Option Arg16 :=
  if canonical lsb msb then some (BitVec.ofNat 16 (unpack16 lsb msb)) else none

/-- The operation that `CMDTAB` row `idx` with these operand bytes stands for (rule R65): what a receiver that knows the
row reads (rule R66). -/
def wireRowInstr (idx : Nat) (ops : List Byte) : Option Instr :=
  match idx, ops with
  | 0, [ch, lsb, msb] => (valueOfPair lsb msb).map (Instr.setTarget ch)
  | 1, [ch, lsb, msb] => (valueOfPair lsb msb).map (Instr.setSpeed ch)
  | 2, [ch, lsb, msb] => (valueOfPair lsb msb).map (Instr.setAcceleration ch)
  | 3, [ch] => some (.getPosition ch)
  | 4, [] => some .getMovingState
  | 5, [] => some .getErrors
  | 6, [] => some .goHome
  | 7, ops => some (.getScriptStatus ops)
  | 8, ops => some (.stopScript ops)
  | 9, ops => some (.restartScriptAtSubroutine ops)
  | 10, ops => some (.restartScriptAtSubroutineWithParameter ops)
  | _, _ => none

/-- A frame cut into its `CMDTAB` row and its operand bytes: Compact on the full opcode byte, Addressed on the fixed lead
byte and the masked opcode (rules R61, R62).  The block itself never reads a frame (rule R67); this is the receiver of
rule R66, and it is what the COMPACT and ADDRESSED rows of the opcode table are read with (log entry 4).  An Addressed frame whose
masked opcode fits two rows is read as the lower one, the model's choice (log entry 22; rules R68, R125). -/
def splitFrame (t : Config.Tables) (v : Config.Variant) (f : List Byte) : Option (Nat × List Byte) :=
  match v, f with
  | .compact, opc :: ops => (indexOf t opc).map (fun i => (i, ops))
  | .addressed, b0 :: dev :: op7 :: ops =>
    if b0 = lead ∧ dev &&& mask7 = dev then
      ((cmdtab t).findIdx? (fun r => r.value &&& mask7 == op7)).map (fun i => (i, ops))
    else none
  | _, _ => none

/-- The decoder of the wire: the operation a frame stands for, none if it stands for none of the 11 commands. -/
def decodeFrame (t : Config.Tables) (v : Config.Variant) (f : List Byte) : Option Instr :=
  (splitFrame t v f).bind (fun c => wireRowInstr c.1 c.2)

/-- A host packet from a bare head word: the operand bytes that the table gives no bits are zero. -/
def packetOfHead (h : HeadWord) : Packet := ⟨h, List.replicate (oplenField h).toNat 0⟩

/-- The `n` bytes of a wire row's word, byte 0 most significant as the table numbers them ("match_scope"). -/
def bytesOfWord (n w : Nat) : List Byte := (List.range n).map (fun i => BitVec.ofNat 8 (w >>> (8 * (n - 1 - i))))

/-- The frame format a table word is read in: three bytes or more of which the first is the lead byte are Addressed (log entries 4
and 22). -/
def formatOfBytes (f : List Byte) : Config.Variant :=
  if 3 ≤ f.length ∧ f.head? = some lead then .addressed else .compact

/-- A wire row's word as an operation: the operand bytes the word leaves out are zeros, as many as the row's `nops`. -/
def decodeWireWord (t : Config.Tables) (nbits w : Nat) : Option Instr :=
  let f := bytesOfWord (nbits / 8) w
  (splitFrame t (formatOfBytes f) f).bind (fun c =>
    (rowOf t c.1).bind (fun r => wireRowInstr c.1 ((c.2 ++ List.replicate maxOps 0).take r.nops.toNat)))

/-- The operation of an opcode-table word: the 32-bit rows are head words of the host port, the others are wire frames. -/
def decodeTableWord (nbits w : Nat) : Option Instr :=
  if nbits = 32 then (decode (packetOfHead (BitVec.ofNat 32 w))).toOption else decodeWireWord Config.tables nbits w

/-- The host packet that presents an opcode-table word to the command port. -/
def packetOfTableWord (t : Config.Tables) (nbits w : Nat) : Option Packet :=
  if nbits = 32 then some (packetOfHead (BitVec.ofNat 32 w)) else (decodeWireWord t nbits w).map (encode t)

end Sys2Proof
end

