-- ==== Sys2Proof/Machine/State.lean ====
section
/-! DEFINITION. The state of the block (10_state.md), its inputs from the host, the transport and the reset line, and the
state right after reset (rule R30). -/

namespace Sys2Proof.Machine

open Sys2Proof.Config

/-- Why a step stops with a fault.  The spec has no fault of its own: every error kind of the document is a status and a
next state (rule R195). -/
inductive Fault where
  /-- An operation was run with more than `MAXOPS` = 15 operand bytes, which no packet can carry (rules R71, R123).  Raised
  by ENCODE, XFER and the four script pseudo-operations on an ill-formed term only; no decoded packet raises it.  Safe. -/
  | operandOverflow
deriving DecidableEq, Repr

/-- Why a step gives no meaning. -/
inductive Refusal where
  /-- An instruction without a meaning, raised by an arm of `exec`; no arm raises it.  Safe. -/
  | notModelled (mnemonic : String)
  /-- The command port holds a head word whose `OPLEN` is not the number of operand bytes beside it, which is no packet
  (rule R71).  Raised by the step that takes it.  Safe. -/
  | malformedPacket
deriving DecidableEq, Repr

/-- The six error kinds (rule R196). -/
inductive ErrorKind where
  | unknownParameter
  | channelOutOfRange
  | valueOutOfRange
  | ioError
  | responseTimeout
  | protocolError
deriving DecidableEq, Repr

/-- `PHASE` (rule R27). -/
inductive Phase where
  | idle
  | tx
  | rx
deriving DecidableEq, Repr

/-- `PEND.kind`: how the response will be decoded (rule R28). -/
inductive PendKind where
  | raw
  | none
  | position
  | moving
  | errors
deriving DecidableEq, Repr

/-- `PEND` (rule R28): the kind of the response and its expected length `0 .. 3`. -/
structure Pend where
  kind : PendKind
  n : BitVec 2
deriving DecidableEq, Repr

/-- The transport's answer to a send (rules R74, R143). -/
inductive TxAnswer where
  | ok
  | ioerr
deriving DecidableEq, Repr

/-- The transport's answer to a read (rules R74, R144): any bytes, any number of them (rule R145). -/
inductive RxAnswer where
  | ok (bytes : List Byte)
  | timeout
  | ioerr
deriving DecidableEq, Repr

/-- What can reach the block from outside: a packet at the command port (rule R70), an answer of the transport
(rules R143, R144), and the two edges of the reset input, the release with the strap levels it samples (rule R230). -/
inductive Input where
  | command (p : Packet)
  | txAnswer (a : TxAnswer)
  | rxAnswer (a : RxAnswer)
  | resetAssert
  | resetRelease (straps : Straps)
deriving DecidableEq, Repr

/-- What the block asks of the transport: to send a byte sequence, or to read `n` bytes within a window
(rules R14, R143, R144). -/
inductive Request where
  | txSend (bytes : List Byte)
  | rxRequest (n : Nat) (timeout : Nat)
deriving DecidableEq, Repr

/-- A byte buffer: the bytes that are not 0, by rising index.  An unlisted index reads as 0, the reset contents of both
buffers (rules R25, R26, R30). -/
abbrev Memory := List Host.Cell

/-- The canonical form of a buffer of `cap` bytes: indices strictly rising, inside the buffer, no listed byte 0. -/
abbrev Memory.wf (cap : Nat) (m : Memory) : Prop :=
  (m.map (·.1)).Pairwise (· < ·) ∧ ∀ c ∈ m, c.1 < cap ∧ c.2 ≠ 0

/-- The state of the block: the four classes of rule R10, the level of the reset input, and two fields of the model's own
that stand for the outside, `inputs` and `transportLog`. -/
structure State where
  /-- `VARIANT` (rule R11). -/
  variant : Variant
  /-- `DEVID` (rule R12). -/
  devid : Byte
  /-- `NCH` (rule R13). -/
  nch : Byte
  /-- The OPEN cells of the constant tables (rules R10 (b), R15, R16, R185). -/
  tables : Tables
  /-- `STATUS` (rule R18). -/
  status : BitVec 4
  /-- `RVAL` (rule R19). -/
  rval : BitVec 16
  /-- `RB0` (rule R20). -/
  rb0 : Byte
  /-- `RB1` (rule R20). -/
  rb1 : Byte
  /-- `ROFF` (rule R21). -/
  roff : BitVec 16
  /-- `RWID` (rule R21). -/
  rwid : Byte
  /-- `HIT` (rule R23). -/
  hit : Bool
  /-- `MOVING` (rule R23). -/
  moving : Bool
  /-- `ERRKNOWN` (rule R24). -/
  errknown : BitVec 9
  /-- `ERRUNREC` (rule R24). -/
  errunrec : BitVec 7
  /-- `TXBUF`, 18 bytes (rule R25). -/
  txbuf : Memory
  /-- `TXLEN` (rule R25). -/
  txlen : BitVec 5
  /-- `RXBUF`, 3 bytes (rule R26). -/
  rxbuf : Memory
  /-- `RXLEN` (rule R26). -/
  rxlen : BitVec 2
  /-- `PHASE` (rule R27). -/
  phase : Phase
  /-- `PEND` (rule R28), not readable by the host. -/
  pend : Pend
  /-- The level of the reset input (rule R230). -/
  resetAsserted : Bool
  /-- The model's own: what the host, the transport and the reset line will present, earliest first.  A list that says
  nothing about which answers come (rule R145; log entry 5). -/
  inputs : List Input
  /-- The model's own: every request made to the transport so far, earliest first; the frames in it, joined, are the wire-out
  stream of rule R40 (log entry 6). -/
  transportLog : List Request
deriving DecidableEq, Repr

/-- The state that the release of reset leaves, given the strap inputs and the design's tables (rules R30, R230).  `PEND` is
"don't care" there (log entry 7). -/
def State.resetWith (st : Straps) (t : Tables) : State where
  variant := st.variant
  devid := st.devid
  nch := st.nch
  tables := t
  status := 0
  rval := 0
  rb0 := 0
  rb1 := 0
  roff := 0
  rwid := 0
  hit := false
  moving := false
  errknown := 0
  errunrec := 0
  txbuf := []
  txlen := 0
  rxbuf := []
  rxlen := 0
  phase := .idle
  pend := ⟨.none, 0⟩
  resetAsserted := false
  inputs := []
  transportLog := []

/-- The machine right after reset: every field as rule R30 says, the straps and the tables being the OPEN parameters of the
configuration, nothing presented by the host and nothing sent (rule R231). -/
def State.reset : State := State.resetWith Config.straps Config.tables

end Sys2Proof.Machine
end

