-- ==== Sys2Proof/Machine/Ops.lean ====
section
/-! DEFINITION. The named operations over the buffers, the registers and the transport: what every meaning is built from.
Raising an error, the block's only exceptional outcome (rules R8, R207), is `raiseError`. -/

namespace Sys2Proof.Machine

/-- The outcome of a step of this machine. -/
abbrev Result := Host.Outcome State Fault Refusal

/-! ### Buffers (20_memory.md) -/

/-- One byte of a buffer (rule R41); an unlisted index reads as 0. -/
def memRead : Memory → Nat → Byte
  | [], _ => 0
  | (a, b) :: rest, i => if a = i then b else memRead rest i

/-- Write one byte of a buffer, keeping the canonical form: a 0 is not listed. -/
def memWrite : Memory → Nat → Byte → Memory
  | [], i, b => if b = 0 then [] else [(i, b)]
  | (a, c) :: rest, i, b =>
    if i < a then (if b = 0 then (a, c) :: rest else (i, b) :: (a, c) :: rest)
    else if i = a then (if b = 0 then rest else (i, b) :: rest)
    else (a, c) :: memWrite rest i b

/-- `MemWrite(buffer, at, len(s), s)`: the bytes of `s` to consecutive indices (rule R41). -/
def memWriteSeq : Memory → Nat → List Byte → Memory
  | m, _, [] => m
  | m, i, b :: rest => memWriteSeq (memWrite m i b) (i + 1) rest

/-- `MemRead(buffer, 0, n)`: the first `n` bytes as a sequence (rule R41). -/
def memReadSeq (m : Memory) (n : Nat) : List Byte := (List.range n).map (memRead m)

/-! ### Status (60_exceptions.md) -/

/-- The code of an error kind (rule R196). -/
def errorCode : ErrorKind → BitVec 4
  | .unknownParameter => 1
  | .channelOutOfRange => 2
  | .valueOutOfRange => 3
  | .ioError => 4
  | .responseTimeout => 5
  | .protocolError => 6

/-- `raise E`: the code goes to `STATUS`, the block returns to `IDLE`, and nothing else is written (rules R8, R207).  There is
no handler, no vector, no saved state and no return operation (rules R207, R208). -/
def raiseError (e : ErrorKind) (s : State) : State := { s with status := errorCode e, phase := .idle }

/-- `ok` at the end of a pure operation: `STATUS <- 0` (rule R8). -/
def endOk (s : State) : State := { s with status := 0 }

/-- `ok` and `PHASE <- IDLE`, the end of a transaction that succeeded (rules R148, R149). -/
def endTransaction (s : State) : State := { s with status := 0, phase := .idle }

/-- The argument check comes first: it raises its error, or the effect happens (rules R29, R147, R206). -/
def guarded (check : Option ErrorKind) (effect : State → State) (s : State) : State :=
  match check with
  | some e => raiseError e s
  | none => effect s

/-! ### Argument checks -/

/-- `ValueOutOfRange` unless `0 <= v <= 16383` (rules R107, R153, R199). -/
def valueCheck (a : Arg16) : Option ErrorKind :=
  if representable (operandValue a) then none else some .valueOutOfRange

/-- `ChannelOutOfRange` unless `ch < NCH` (rules R13, R198). -/
def channelCheck (ch nch : Byte) : Option ErrorKind :=
  if ch.toNat < nch.toNat then none else some .channelOutOfRange

/-! ### Result registers (10_state.md section 4) -/

/-- `RVAL <- v`. -/
def setRval (v : BitVec 16) (s : State) : State := { s with rval := v }

/-- `RB0 <- b0; RB1 <- b1` (rule R107). -/
def setPacked (b0 b1 : Byte) (s : State) : State := { s with rb0 := b0, rb1 := b1 }

/-- `ROFF <- off; RWID <- wid` (rules R91, R93). -/
def setAddress (off : BitVec 16) (wid : Byte) (s : State) : State := { s with roff := off, rwid := wid }

/-- `HIT <- 1; RB0 <- i` on a hit, `HIT <- 0` with `RB0` unchanged otherwise (rule R131). -/
def setName (found : Option Nat) (s : State) : State :=
  match found with
  | some i => { s with hit := true, rb0 := BitVec.ofNat 8 i }
  | none => { s with hit := false }

/-- `RVAL <- w; ERRKNOWN <- w[8:0]; ERRUNREC <- w[15:9]` (rule R183). -/
def setErrors (w : BitVec 16) (s : State) : State :=
  { s with rval := w, errknown := w.extractLsb' 0 9, errunrec := w.extractLsb' 9 7 }

/-- `RVAL <- zext_16(b0); MOVING <- m` (rule R182). -/
def setMoving (v : BitVec 16) (m : Bool) (s : State) : State := { s with rval := v, moving := m }

/-! ### Frames and the transport (43_commands.md) -/

/-- `MemWrite(TXBUF, 0, len(f), f); TXLEN <- len(f)` (rule R121). -/
def storeFrame (f : List Byte) (s : State) : State :=
  { s with txbuf := memWriteSeq s.txbuf 0 f, txlen := BitVec.ofNat 5 f.length }

/-- `RXBUF[i] <- bs[i]` for every byte, `RXLEN <- len(bs)` (rule R149). -/
def storeResponse (bs : List Byte) (s : State) : State :=
  { s with rxbuf := memWriteSeq s.rxbuf 0 bs, rxlen := BitVec.ofNat 2 bs.length }

/-- `TxSend(f)`: the byte sequence is handed to the transport (rule R143). -/
def txSend (f : List Byte) (s : State) : State := { s with transportLog := s.transportLog ++ [.txSend f] }

/-- `RxRequest(n)`, with the window `TIMEOUT` (rules R14, R144). -/
def rxRequest (n : Nat) (s : State) : State :=
  { s with transportLog := s.transportLog ++ [.rxRequest n s.tables.timeout] }

/-- The frame of an opcode and its operand bytes in this instance's format (rules R120, R121). -/
def frameOf (opc : Byte) (ops : List Byte) (s : State) : List Byte := frame s.variant s.devid opc ops

/-- `PEND <- (kind, n); PHASE <- TX` (rule R147). -/
def startTransaction (kind : PendKind) (n : BitVec 2) (s : State) : State := { s with pend := ⟨kind, n⟩, phase := .tx }

/-- What the issue step does once its check has passed: the frame is built, stored and sent (rule R147). -/
def issued (opc : Byte) (ops : List Byte) (n : BitVec 2) (kind : PendKind) (s : State) : State :=
  txSend (frameOf opc ops s) (startTransaction kind n (storeFrame (frameOf opc ops s) s))

/-- An effect that is given an operand list: the list fits the packet that carried it (rules R71, R123). -/
def withOperands (ops : List Byte) (effect : State → State) (s : State) : Result :=
  if ops.length ≤ maxOps then .next (effect s) else .fault .operandOverflow

/-- The issue step (rule R147). -/
def issue (check : Option ErrorKind) (opc : Byte) (ops : List Byte) (n : BitVec 2) (kind : PendKind) (s : State) : Result :=
  withOperands ops (guarded check (issued opc ops n kind)) s

/-! ### The handshake and the numbers of the ports -/

/-- `ready`: a command can be accepted (rules R70, R230). -/
def ready (s : State) : Bool := decide (s.phase = .idle) && !s.resetAsserted

/-- `busy = (PHASE != IDLE)` (rule R27). -/
def busy (s : State) : Bool := decide (s.phase ≠ .idle)

/-- The number of a phase (rule R27); 3 never occurs. -/
def phaseCode : Phase → BitVec 2
  | .idle => 0
  | .tx => 1
  | .rx => 2

/-- The number of a transmit answer (rule R74). -/
def txAnswerCode : TxAnswer → Nat
  | .ok => 0
  | .ioerr => 1

/-- The number of a receive answer (rule R74). -/
def rxAnswerCode : RxAnswer → Nat
  | .ok _ => 0
  | .timeout => 1
  | .ioerr => 2

/-- The wire-out stream: the bytes of every frame handed to the transport, in order (rules R40, R44). -/
def wireOut (log : List Request) : List Byte :=
  match log with
  | [] => []
  | .txSend f :: rest => f ++ wireOut rest
  | .rxRequest _ _ :: rest => wireOut rest

end Sys2Proof.Machine
end

