-- ==== Sys2Proof/Machine/Flags.lean ====
section
/-! DEFINITION. The flags and the response decoders (44_decode.md): `HIT` is `setName`, `MOVING`, `ERRKNOWN` and `ERRUNREC`
are computed here.  A decoder never fails (rule R180). -/

namespace Sys2Proof.Machine

open Sys2Proof.Config

/-- `MOVING`: every byte but `0x00` means moving (rule R182). -/
def movingFlag (b0 : Byte) : Bool := decide (b0 ≠ 0)

/-- The error word `(b0 | (b1 << ERR_SHIFT)) & 0xFFFF` (rule R183). -/
def errorWord (sh : ErrShift) (b0 b1 : Byte) : BitVec 16 :=
  BitVec.ofNat 16 ((b0.toNat ||| (b1.toNat <<< errShiftAmount sh)) &&& 0xFFFF)

/-- The condition is reported: its bit of `ERRKNOWN` is set (rules R24, R183). -/
def conditionReported (c : ErrorCondition) (s : State) : Bool := s.errknown.getLsbD (conditionBit c)

/-- Position decode (rule R181). -/
def decodePosition (b0 b1 : Byte) (s : State) : State := setRval (zext16 (unpack16 b0 b1)) s

/-- Moving-state decode (rule R182). -/
def decodeMoving (b0 : Byte) (s : State) : State := setMoving (b0.setWidth 16) (movingFlag b0) s

/-- Error-bitmask decode (rule R183). -/
def decodeErrors (b0 b1 : Byte) (s : State) : State := setErrors (errorWord s.tables.errShift b0 b1) s

/-- The decode of the response in `RXBUF` by `PEND.kind` (rule R149).  A command of kind `NONE` has no response
(log entry 21). -/
def decodeResponse (kind : PendKind) (s : State) : State :=
  match kind with
  | .raw => s
  | .none => s
  | .position => decodePosition (memRead s.rxbuf 0) (memRead s.rxbuf 1) s
  | .moving => decodeMoving (memRead s.rxbuf 0) s
  | .errors => decodeErrors (memRead s.rxbuf 0) (memRead s.rxbuf 1) s

end Sys2Proof.Machine
end

