-- ==== Sys2Proof/Machine/Decoding.lean ====
section
/-! DEFINITION. The pure error decoder (44_decode.md). -/

namespace Sys2Proof.Machine

/-- DEC_ERRORS (rule R184): never fails, `RXBUF` is not touched. -/
def execDecErrors (b0 b1 : Byte) (s : State) : Result := .next (endOk (decodeErrors b0 b1 s))

end Sys2Proof.Machine
end

