-- ==== Sys2Proof/Machine/Framing.lean ====
section
/-! DEFINITION. The command framer and the code table (42_framing.md). -/

namespace Sys2Proof.Machine

/-- ENCODE (rule R126): builds the frame and sends nothing. -/
def execEncode (opc : Byte) (ops : List Byte) (s : State) : Result :=
  withOperands ops (fun s => endOk (storeFrame (frameOf opc ops s) s)) s

/-- CODE_OF (rule R130): `UnknownParameter` for an index outside `0 .. 10`. -/
def execCodeOf (idx : Byte) (s : State) : Result :=
  .next (match rowOf s.tables idx.toNat with
    | none => raiseError .unknownParameter s
    | some r => endOk (setRval (r.value.setWidth 16) s))

/-- NAME_OF (rule R131): never fails (rule R129). -/
def execNameOf (byte : Byte) (s : State) : Result := .next (endOk (setName (indexOf s.tables byte) s))

end Sys2Proof.Machine
end

