-- ==== Sys2Proof/Machine/Packing.lean ====
section
/-! DEFINITION. The 7-bit packing family (41_packing.md). -/

namespace Sys2Proof.Machine

/-- PACK16 (rule R107). -/
def execPack16 (a : Arg16) (s : State) : Result :=
  let v := (operandValue a).toNat
  .next (guarded (valueCheck a) (fun s => endOk (setPacked (packLow v) (packHigh v) s)) s)

/-- UNPACK16 (rule R110): never fails. -/
def execUnpack16 (b0 b1 : Byte) (s : State) : Result := .next (endOk (setRval (zext16 (unpack16 b0 b1)) s))

end Sys2Proof.Machine
end

