-- ==== Sys2Proof/Machine/Registry.lean ====
section
/-! DEFINITION. The parameter registry family (40_registry.md).  Neither operation masks, wraps or checks more than the
rules say (rules R95, R96). -/

namespace Sys2Proof.Machine

open Sys2Proof.Config

/-- The tabulated row, or `UnknownParameter` (rules R91, R93, R197). -/
def withParam (rows : List ParamRow) (id : Byte) (effect : ParamRow → State → State) (s : State) : State :=
  match paramOf rows id with
  | none => raiseError .unknownParameter s
  | some r => effect r s

/-- ADDR_DEV (rule R91): the pair exactly as tabulated. -/
def execAddrDev (pid : Byte) (s : State) : Result :=
  .next (withParam s.tables.devparams pid (fun r s => endOk (setAddress r.offset r.width s)) s)

/-- ADDR_SERVO (rule R93): the channel is checked before the field (rule R94). -/
def execAddrServo (ch fid : Byte) (s : State) : Result :=
  .next (guarded (channelCheck ch s.nch)
    (withParam s.tables.fields fid
      (fun r s => endOk (setAddress (zext16 (servoOffset ch.toNat r.offset.toNat)) r.width s))) s)

end Sys2Proof.Machine
end

