-- ==== Sys2Proof/Machine/Transactions.lean ====
section
/-! DEFINITION. The issue steps of the transaction operations (43_commands.md, rule R141) and of the four script
pseudo-operations (rules R76, R162 to R165).  The steps that follow an issue are in `Sys2Proof.Machine.Transport`. -/

namespace Sys2Proof.Machine

open Sys2Proof.Config

/-- XFER (rule R154): no argument check, response left raw. -/
def execXfer (opc : Byte) (ops : List Byte) (nresp : BitVec 2) (s : State) : Result := issue none opc ops nresp .raw s

/-- The issue step of a SET operation: the value is checked, the channel is not (rule R153). -/
def issueSet (opc : Byte) (ch : Byte) (a : Arg16) (s : State) : Result :=
  issue (valueCheck a) opc (channelValueOps ch a) 0 .none s

/-- SET_TARGET (rule R155). -/
def execSetTarget (ch : Byte) (a : Arg16) (s : State) : Result := issueSet opcSetTarget ch a s

/-- SET_SPEED (rule R156). -/
def execSetSpeed (ch : Byte) (a : Arg16) (s : State) : Result := issueSet s.tables.opcSetSpeed ch a s

/-- SET_ACCELERATION (rule R157). -/
def execSetAcceleration (ch : Byte) (a : Arg16) (s : State) : Result := issueSet s.tables.opcSetAcceleration ch a s

/-- GET_POSITION (rule R158). -/
def execGetPosition (ch : Byte) (s : State) : Result :=
  issue (channelCheck ch s.nch) s.tables.opcGetPosition [ch] 2 .position s

/-- GET_MOVING_STATE (rule R159). -/
def execGetMovingState (s : State) : Result := issue none s.tables.opcGetMovingState [] 1 .moving s

/-- GET_ERRORS (rule R160). -/
def execGetErrors (s : State) : Result := issue none s.tables.opcGetErrors [] 2 .errors s

/-- GO_HOME (rule R161). -/
def execGoHome (s : State) : Result := issue none s.tables.opcGoHome [] 0 .none s

/-- A script opcode: its `CMDTAB` row sent as XFER sends it (rule R76). -/
def issueRow (r : CmdRow) (ops : List Byte) (s : State) : Result := issue none r.value ops r.nresp .raw s

/-- GET_SCRIPT_STATUS (rule R162). -/
def execGetScriptStatus (ops : List Byte) (s : State) : Result := issueRow s.tables.getScriptStatus ops s

/-- STOP_SCRIPT (rule R163). -/
def execStopScript (ops : List Byte) (s : State) : Result := issueRow s.tables.stopScript ops s

/-- RESTART_SCRIPT_AT_SUBROUTINE (rule R164). -/
def execRestartScriptAtSubroutine (ops : List Byte) (s : State) : Result := issueRow s.tables.restartScript ops s

/-- RESTART_SCRIPT_AT_SUBROUTINE_WITH_PARAMETER (rule R165). -/
def execRestartScriptAtSubroutineWithParameter (ops : List Byte) (s : State) : Result :=
  issueRow s.tables.restartScriptWithParameter ops s

end Sys2Proof.Machine
end

