-- ==== Sys2Proof/Machine/Dispatch.lean ====
section
/-! DEFINITION. One arm for each constructor of Instr. -/

namespace Sys2Proof.Machine

def exec (i : Instr) (s : State) : Host.Outcome State Fault Refusal :=
  match i with
  | .pack16 a => Sys2Proof.Machine.execPack16 a s
  | .unpack16 b0 b1 => Sys2Proof.Machine.execUnpack16 b0 b1 s
  | .addrDev pid => Sys2Proof.Machine.execAddrDev pid s
  | .addrServo ch fid => Sys2Proof.Machine.execAddrServo ch fid s
  | .encode opc ops => Sys2Proof.Machine.execEncode opc ops s
  | .codeOf idx => Sys2Proof.Machine.execCodeOf idx s
  | .nameOf byte => Sys2Proof.Machine.execNameOf byte s
  | .decErrors b0 b1 => Sys2Proof.Machine.execDecErrors b0 b1 s
  | .xfer opc ops nresp => Sys2Proof.Machine.execXfer opc ops nresp s
  | .setTarget ch a => Sys2Proof.Machine.execSetTarget ch a s
  | .setSpeed ch a => Sys2Proof.Machine.execSetSpeed ch a s
  | .setAcceleration ch a => Sys2Proof.Machine.execSetAcceleration ch a s
  | .getPosition ch => Sys2Proof.Machine.execGetPosition ch s
  | .getMovingState => Sys2Proof.Machine.execGetMovingState s
  | .getErrors => Sys2Proof.Machine.execGetErrors s
  | .goHome => Sys2Proof.Machine.execGoHome s
  | .getScriptStatus ops => Sys2Proof.Machine.execGetScriptStatus ops s
  | .stopScript ops => Sys2Proof.Machine.execStopScript ops s
  | .restartScriptAtSubroutine ops => Sys2Proof.Machine.execRestartScriptAtSubroutine ops s
  | .restartScriptAtSubroutineWithParameter ops => Sys2Proof.Machine.execRestartScriptAtSubroutineWithParameter ops s

end Sys2Proof.Machine
end

