-- ==== Sys2Proof/Machine/Transport.lean ====
section
/-! DEFINITION. The steps that an input other than a command causes: the transmit answer (rule R148), the receive answer
(rule R149) and the two edges of reset (rules R230 to R232); and which input the block takes next. -/

namespace Sys2Proof.Machine

open Sys2Proof.Config

/-- The transmit-answer step (rule R148): a failed write ends the transaction, a read follows only if one is expected. -/
def txAnswerStep (a : TxAnswer) (s : State) : State :=
  match a with
  | .ioerr => raiseError .ioError s
  | .ok =>
    if s.pend.n = 0 then endTransaction { s with rxlen := 0 }
    else rxRequest s.pend.n.toNat { s with phase := .rx }

/-- The receive-answer step (rule R149): only a complete answer of exactly `PEND.n` bytes becomes a result (rule R150). -/
def rxAnswerStep (a : RxAnswer) (s : State) : State :=
  match a with
  | .ioerr => raiseError .ioError s
  | .timeout => raiseError .responseTimeout s
  | .ok bs =>
    if bs.length = s.pend.n.toNat then endTransaction (decodeResponse s.pend.kind (storeResponse bs s))
    else raiseError .protocolError s

/-- The reset input is asserted: from here no command is accepted and no request made (rule R230).  The
registers keep their values until the release (log entry 11). -/
def assertReset (s : State) : State := { s with resetAsserted := true }

/-- The reset input is released: the straps are sampled, every other register takes its reset value, the tables stay, and
nothing is sent (rules R30, R230 to R232). -/
def releaseReset (st : Straps) (s : State) : State where
  variant := st.variant
  devid := st.devid
  nch := st.nch
  tables := s.tables
  status := 0
  rval := 0
  rb0 := 0
  rb1 := 0
  roff := 0
  rwid := 0
  hit := false
  moving := false
  errknown := 0
  errunrec := 0
  txbuf := []
  txlen := 0
  rxbuf := []
  rxlen := 0
  phase := .idle
  pend := ⟨.none, 0⟩
  resetAsserted := false
  inputs := s.inputs
  transportLog := s.transportLog

/-- Whether the block takes this input now: a command when `ready` (rule R70), an answer in the phase that waits for it
(rules R148, R149), nothing but its release while reset is asserted (rule R230). -/
def inputEnabled (s : State) (x : Input) : Bool :=
  match x with
  | .command _ => ready s
  | .txAnswer _ => decide (s.phase = .tx) && !s.resetAsserted
  | .rxAnswer _ => decide (s.phase = .rx) && !s.resetAsserted
  | .resetAssert => !s.resetAsserted
  | .resetRelease _ => s.resetAsserted

/-- The first input that the block takes now, with the inputs that wait (rule R70: nothing is lost, order is kept). -/
def takeInput (s : State) : List Input → Option (Input × List Input)
  | [] => none
  | x :: rest =>
    if inputEnabled s x then some (x, rest)
    else match takeInput s rest with
      | none => none
      | some (y, others) => some (y, x :: others)

/-- Put a packet at the command port of a block that can accept it, before everything that waits. -/
def presentPacket (p : Packet) (s : State) : State :=
  { s with phase := .idle, resetAsserted := false, inputs := .command p :: s.inputs }

end Sys2Proof.Machine
end

