-- ==== Sys2Proof/Machine/Step.lean ====
section
/-! DEFINITION. One step of the machine: the first input that the block takes now, and what it does to the state.  With none
to take, the block waits (rules R70, R145). -/

namespace Sys2Proof.Machine

/-- What one input does (rules R9, R70, R148, R149, R230).  A command is decoded and executed. -/
def stepInput (x : Input) (s : State) : Host.Outcome State Fault Refusal :=
  match x with
  | .command p =>
    match decode p with
    | .ok i => exec i s
    | .error _ => .refused .malformedPacket
  | .txAnswer a => .next (txAnswerStep a s)
  | .rxAnswer a => .next (rxAnswerStep a s)
  | .resetAssert => .next (assertReset s)
  | .resetRelease st => .next (releaseReset st s)

/-- One step. -/
def step (s : State) : Host.Outcome State Fault Refusal :=
  match takeInput s s.inputs with
  | none => .next s
  | some (x, waiting) => stepInput x { s with inputs := waiting }

/-- `s` with the opcode-table word `w` at the command port, so that the very next step accepts and runs it (log entry 8).
A word that decodes to nothing presents nothing. -/
def State.withFetchWord (s : State) (nbits w : Nat) : State :=
  match packetOfTableWord s.tables nbits w with
  | some p => presentPacket p s
  | none => s

end Sys2Proof.Machine
end

