-- ==== Sys2Proof/Machine/HostPort.lean ====
section
/-! DEFINITION. What the host reads: the straps, the result registers, the buffers and the handshake, at any time and with
no side effect (rules R11 to R13, R18 to R27, R47, R53).  `PEND` is not among them (rule R28). -/

namespace Sys2Proof.Machine

open Sys2Proof.Config

/-- The host's view of the block. -/
structure HostView where
  variant : Variant
  devid : Byte
  nch : Byte
  status : BitVec 4
  rval : BitVec 16
  rb0 : Byte
  rb1 : Byte
  roff : BitVec 16
  rwid : Byte
  hit : Bool
  moving : Bool
  errknown : BitVec 9
  errunrec : BitVec 7
  txbuf : List Byte
  txlen : BitVec 5
  rxbuf : List Byte
  rxlen : BitVec 2
  ready : Bool
  busy : Bool
deriving DecidableEq, Repr

/-- Every register and buffer byte that the host can read. -/
def hostView (s : State) : HostView where
  variant := s.variant
  devid := s.devid
  nch := s.nch
  status := s.status
  rval := s.rval
  rb0 := s.rb0
  rb1 := s.rb1
  roff := s.roff
  rwid := s.rwid
  hit := s.hit
  moving := s.moving
  errknown := s.errknown
  errunrec := s.errunrec
  txbuf := memReadSeq s.txbuf txCap
  txlen := s.txlen
  rxbuf := memReadSeq s.rxbuf maxResp
  rxlen := s.rxlen
  ready := Machine.ready s
  busy := Machine.busy s

end Sys2Proof.Machine
end

