-- ==== Sys2Proof/Safety.lean ====
section
/-! DEFINITION. What the statements about runs speak of: a run of several steps, the invariant of the machine, what an issue step leaves, which
registers a failure keeps, which status an operation can end with, and inputs that never stop a run. -/

namespace Sys2Proof.Machine

open Sys2Proof.Config

/-- The response length that goes with each kind (rule R141); a RAW transaction has the length its host asked for. -/
def pendLegal (p : Pend) : Prop :=
  match p.kind with
  | .raw => True
  | .none => p.n = 0
  | .position => p.n = 2
  | .moving => p.n = 1
  | .errors => p.n = 2

/-- The frame in `TXBUF`: bytes `0 .. TXLEN-1` (rule R25). -/
def currentFrame (s : State) : List Byte := memReadSeq s.txbuf s.txlen.toNat

/-- The request that the phase waits on is the last one made: in `TX` the send of the frame in `TXBUF`, in `RX` the read of
`PEND.n` bytes, right after that send (rules R27, R143, R147, R148). -/
def outstanding (s : State) : Prop :=
  match s.phase with
  | .idle => True
  | .tx => s.transportLog.getLast? = some (.txSend (currentFrame s))
  | .rx => s.pend.n ≠ 0 ∧ ∃ before, s.transportLog =
      before ++ [.txSend (currentFrame s), .rxRequest s.pend.n.toNat s.tables.timeout]

/-- The invariant of the machine: both buffers in canonical form, the valid part of `TXBUF` inside it, `STATUS` in `0 .. 6`
(rule R18), and outside `IDLE` a legal `PEND` and the request that the phase waits on (rules R27, R28). -/
def Inv (s : State) : Prop :=
  Memory.wf txCap s.txbuf ∧ Memory.wf maxResp s.rxbuf ∧ s.txlen.toNat ≤ txCap ∧ s.status.toNat ≤ 6 ∧
    (s.phase ≠ .idle → pendLegal s.pend) ∧ outstanding s

/-- The outcome is a next state that differs from `u` in `PEND` at most: where an operation or a reset ends, the spec leaves
`PEND` open (rules R28, R30, R207), and what the model puts there is its own choice (log entries 7 and 12). -/
def answersUpToPend (r : Result) (u : State) : Prop := ∃ t, r = .next t ∧ t = { u with pend := t.pend }

/-- Every packet with this select code is the operation `mk` makes of its fields (rule R72). -/
def selects (op : BitVec 4) (mk : Packet → Instr) : Prop :=
  ∀ p : Packet, packetWellFormed p → opField p.head = op → decode p = .ok (mk p)

/-- What an issue step that passes its check leaves (rule R147): the frame `f` in `TXBUF` with the bytes past it as they were,
its length in `TXLEN`, `PEND`, `PHASE = TX`, and one send of `f`.  Everything else is unchanged. -/
def leavesIssue (s t : State) (f : List Byte) (kind : PendKind) (n : BitVec 2) : Prop :=
  t = { s with txbuf := t.txbuf, txlen := t.txlen, pend := ⟨kind, n⟩, phase := .tx,
               transportLog := s.transportLog ++ [.txSend f] } ∧
    t.txlen.toNat = f.length ∧ ∀ i, memRead t.txbuf i = f.getD i (memRead s.txbuf i)

/-- A value operand in the 14-bit range, as the check `0 <= v <= 16383` on its two's complement reading (rules R107, R153). -/
def fits14 (a : Arg16) : Prop := 0 ≤ a.toInt ∧ a.toInt ≤ 16383

/-- `A[6:0]`, zero-extended to a byte (rules R64, R107). -/
def lowSeven (a : Arg16) : Byte := (a.extractLsb' 0 7).setWidth 8

/-- `A[13:7]`, zero-extended to a byte (rules R64, R107). -/
def highSeven (a : Arg16) : Byte := (a.extractLsb' 7 7).setWidth 8

/-- What an operation that sets a 14-bit value of a channel does when it is accepted (rules R141, R153): in range, the frame of
its opcode with `[ch, v[6:0], v[13:7]]` is issued whatever the channel, and no response is expected; out of range,
`ValueOutOfRange` and nothing is sent, `PEND` left open. -/
def issuesChannelValue (mk : Byte → Arg16 → Instr) (opc : Tables → Byte) : Prop :=
  ∀ (ch : Byte) (a : Arg16) (s : State), Memory.wf txCap s.txbuf →
    (fits14 a → ∃ t, exec (mk ch a) s = .next t ∧
      leavesIssue s t (frame s.variant s.devid (opc s.tables) [ch, lowSeven a, highSeven a]) .none 0) ∧
    (¬ fits14 a → answersUpToPend (exec (mk ch a) s) { s with status := 3, phase := .idle })

/-- What an operation with nothing to check and no operand does when it is accepted (rule R141). -/
def issuesBareOpcode (i : Instr) (opc : Tables → Byte) (kind : PendKind) (n : BitVec 2) : Prop :=
  ∀ s : State, Memory.wf txCap s.txbuf →
    ∃ t, exec i s = .next t ∧ leavesIssue s t (frame s.variant s.devid (opc s.tables) []) kind n

/-- What a script pseudo-operation does when it is accepted: its row of the code table is issued with the operand bytes the
host supplies, the response to be left raw (rules R76, R162 to R165). -/
def issuesScriptRow (mk : List Byte → Instr) (row : Tables → CmdRow) : Prop :=
  ∀ (ops : List Byte) (s : State), ops.length ≤ 15 → Memory.wf txCap s.txbuf →
    ∃ t, exec (mk ops) s = .next t ∧
      leavesIssue s t (frame s.variant s.devid (row s.tables).value ops) .raw (row s.tables).nresp

/-- The registers that a failed operation keeps: all but `STATUS`, `TXBUF`, `TXLEN` and the sequencer (rules R29, R207). -/
def resultsKept (s t : State) : Prop :=
  t = { s with status := t.status, txbuf := t.txbuf, txlen := t.txlen, phase := t.phase, pend := t.pend,
               inputs := t.inputs, transportLog := t.transportLog }

/-- The response length that an operation asks for (rules R141, R162 to R165); none for a pure operation. -/
def responseLength (t : Tables) (i : Instr) : Option (BitVec 2) :=
  match i with
  | .pack16 _ => none
  | .unpack16 _ _ => none
  | .addrDev _ => none
  | .addrServo _ _ => none
  | .encode _ _ => none
  | .codeOf _ => none
  | .nameOf _ => none
  | .decErrors _ _ => none
  | .xfer _ _ nresp => some nresp
  | .setTarget _ _ => some 0
  | .setSpeed _ _ => some 0
  | .setAcceleration _ _ => some 0
  | .getPosition _ => some 2
  | .getMovingState => some 1
  | .getErrors => some 2
  | .goHome => some 0
  | .getScriptStatus _ => some t.getScriptStatus.nresp
  | .stopScript _ => some t.stopScript.nresp
  | .restartScriptAtSubroutine _ => some t.restartScript.nresp
  | .restartScriptAtSubroutineWithParameter _ => some t.restartScriptWithParameter.nresp

/-- The statuses a transaction with this response length can end with, once it is issued (rule R205). -/
def answerStatuses (nresp : BitVec 2) : List (BitVec 4) := if nresp = 0 then [0, 4] else [0, 4, 5, 6]

/-- The row of rule R205: the statuses an operation can end with. -/
def statuses (t : Tables) (i : Instr) : List (BitVec 4) :=
  match i with
  | .pack16 _ => [0, 3]
  | .unpack16 _ _ => [0]
  | .addrDev _ => [0, 1]
  | .addrServo _ _ => [0, 1, 2]
  | .encode _ _ => [0]
  | .codeOf _ => [0, 1]
  | .nameOf _ => [0]
  | .decErrors _ _ => [0]
  | .xfer _ _ nresp => answerStatuses nresp
  | .setTarget _ _ => 3 :: answerStatuses 0
  | .setSpeed _ _ => 3 :: answerStatuses 0
  | .setAcceleration _ _ => 3 :: answerStatuses 0
  | .getPosition _ => 2 :: answerStatuses 2
  | .getMovingState => answerStatuses 1
  | .getErrors => answerStatuses 2
  | .goHome => answerStatuses 0
  | .getScriptStatus _ => answerStatuses t.getScriptStatus.nresp
  | .stopScript _ => answerStatuses t.stopScript.nresp
  | .restartScriptAtSubroutine _ => answerStatuses t.restartScript.nresp
  | .restartScriptAtSubroutineWithParameter _ => answerStatuses t.restartScriptWithParameter.nresp

/-- The eight pure operations (rule R9). -/
def isPure (i : Instr) : Bool :=
  match i with
  | .pack16 _ => true
  | .unpack16 _ _ => true
  | .addrDev _ => true
  | .addrServo _ _ => true
  | .encode _ _ => true
  | .codeOf _ => true
  | .nameOf _ => true
  | .decErrors _ _ => true
  | .xfer _ _ _ => false
  | .setTarget _ _ => false
  | .setSpeed _ _ => false
  | .setAcceleration _ _ => false
  | .getPosition _ => false
  | .getMovingState => false
  | .getErrors => false
  | .goHome => false
  | .getScriptStatus _ => false
  | .stopScript _ => false
  | .restartScriptAtSubroutine _ => false
  | .restartScriptAtSubroutineWithParameter _ => false

/-- The four pseudo-operations (rule R76). -/
def isPseudo (i : Instr) : Bool :=
  match i with
  | .getScriptStatus _ => true
  | .stopScript _ => true
  | .restartScriptAtSubroutine _ => true
  | .restartScriptAtSubroutineWithParameter _ => true
  | .pack16 _ => false
  | .unpack16 _ _ => false
  | .addrDev _ => false
  | .addrServo _ _ => false
  | .encode _ _ => false
  | .codeOf _ => false
  | .nameOf _ => false
  | .decErrors _ _ => false
  | .xfer _ _ _ => false
  | .setTarget _ _ => false
  | .setSpeed _ _ => false
  | .setAcceleration _ _ => false
  | .getPosition _ => false
  | .getMovingState => false
  | .getErrors => false
  | .goHome => false

/-- The commands among some inputs, in order. -/
def commandsIn : List Input → List Packet
  | [] => []
  | .command p :: rest => p :: commandsIn rest
  | .txAnswer _ :: rest => commandsIn rest
  | .rxAnswer _ :: rest => commandsIn rest
  | .resetAssert :: rest => commandsIn rest
  | .resetRelease _ :: rest => commandsIn rest

/-- Inputs that never stop a run: every packet the host presents is one (rule R71). -/
def inputsSafe (s : State) : Prop := ∀ p ∈ commandsIn s.inputs, packetWellFormed p

/-- `k` steps in a row, ending at the first stop: the host's `run` on the states of this machine. -/
def runSteps : Nat → State → Result
  | 0, s => .next s
  | k + 1, s =>
    match step s with
    | .next t => runSteps k t
    | .fault r => .fault r
    | .refused r => .refused r

/-- A safe outcome is a next state: no fault and no refusal. -/
def safeOutcome : Result → Prop
  | .next _ => True
  | .fault _ => False
  | .refused _ => False

end Sys2Proof.Machine
end

