-- ==== Sys2Proof/Certificates/Slice0/Obligations.lean ====
section
/-! DEFINITION. The statements for the provers. -/

open Sys2Proof Sys2Proof.Machine

/-! ### Packing (41_packing.md) -/

/-- Rule R106: `pack16(v) = [v & 0x7F, (v >> 7) & 0x7F]` on `0 .. 16383`, both bytes canonical, and no other integer is in
the range. -/
def Obligations.PackGivesLowAndHighSevenBits : Prop :=
  (∀ v : Nat, v ≤ 16383 → ∃ b0 b1 : Byte, pack16 v = [b0, b1] ∧ b0.toNat = v &&& 0x7F ∧ b1.toNat = (v >>> 7) &&& 0x7F ∧
    b0.toNat < 0x80 ∧ b1.toNat < 0x80) ∧
  ∀ v : Int, representable v = true ↔ ¬ (v < 0 ∨ v > 16383)

/-- The round trip of rule R109 in both directions, and its failure on every pair that is not canonical; the second direction is
the spec's own inference ("[derived: from rule R106 and rule R108]"). -/
def Obligations.UnpackInvertsPack : Prop :=
  (∀ v : Nat, v ≤ 16383 → ∃ b0 b1 : Byte, pack16 v = [b0, b1] ∧ unpack16 b0 b1 = v) ∧
  (∀ b0 b1 : Byte, canonical b0 b1 = true → unpack16 b0 b1 ≤ 16383 ∧ pack16 (unpack16 b0 b1) = [b0, b1]) ∧
  (∀ b0 b1 : Byte, canonical b0 b1 = false → 16383 < unpack16 b0 b1 ∨ pack16 (unpack16 b0 b1) ≠ [b0, b1])

/-- Rule R108: the formula on all 8 bits, its ranges, bit 7 of a result, and the pairs that give one result. -/
def Obligations.UnpackUsesEveryBit : Prop :=
  (∀ b0 b1 : Byte, unpack16 b0 b1 = b0.toNat ||| (b1.toNat <<< 7)) ∧
  (∀ b0 b1 : Byte, canonical b0 b1 = true → unpack16 b0 b1 ≤ 16383) ∧
  (∀ b0 b1 : Byte, unpack16 b0 b1 ≤ 32767) ∧
  (∀ b0 b1 : Byte, (unpack16 b0 b1).testBit 7 = (b0.getLsbD 7 || b1.getLsbD 0)) ∧
  unpack16 0x80 0x00 = 128 ∧ unpack16 0x00 0x01 = 128 ∧ unpack16 0x80 0x01 = 128

/-- The range test of PACK16 and of the SET operations, as the model makes it, on the bit pattern: a value passes exactly when
`A[15:14] = 0`, and fails with `ValueOutOfRange` alone.  The collapse to the bits is the spec's own inference ("[derived: from
two's complement]" in rule R107, and the same test in rule R153). -/
def Obligations.RangeTestIsABitTest : Prop :=
  ∀ a : Arg16,
    (representable (operandValue a) = true ↔ a.getLsbD 15 = false ∧ a.getLsbD 14 = false) ∧
    (valueCheck a = none ↔ a.getLsbD 15 = false ∧ a.getLsbD 14 = false) ∧
    (valueCheck a = some .valueOutOfRange ↔ a.getLsbD 15 = true ∨ a.getLsbD 14 = true)

/-- Rule R107: PACK16's encoding, and what it does in range and out of range, with everything it leaves alone. -/
def Obligations.Pack16Completes : Prop :=
  selects 0x0 (fun p => .pack16 (aField p.head)) ∧
  ∀ (a : Arg16) (s : State),
    (fits14 a → exec (.pack16 a) s = .next { s with rb0 := lowSeven a, rb1 := highSeven a, status := 0 }) ∧
    (¬ fits14 a → answersUpToPend (exec (.pack16 a) s) { s with status := 3, phase := .idle })

/-- Rule R110: UNPACK16's encoding; it never fails, and its result never exceeds `0x7FFF`. -/
def Obligations.Unpack16Completes : Prop :=
  selects 0x1 (fun p => .unpack16 (bField p.head) (argLow8 (aField p.head))) ∧
  ∀ (b0 b1 : Byte) (s : State), ∃ t, exec (.unpack16 b0 b1) s = .next t ∧
    t = { s with rval := t.rval, status := 0 } ∧ t.rval.toNat = b0.toNat ||| (b1.toNat <<< 7) ∧ t.rval.toNat ≤ 0x7FFF

/-! ### Parameter registry (40_registry.md) -/

/-- Rule R91: ADDR_DEV's encoding, and the pair as tabulated or `UnknownParameter`.  The premise is rule R16's: a table is a
partial function. -/
def Obligations.AddrDevCompletes : Prop :=
  selects 0x2 (fun p => .addrDev (bField p.head)) ∧
  ∀ (pid : Byte) (s : State), paramTableWellFormed s.tables.devparams →
    (∀ r ∈ s.tables.devparams, r.id = pid →
      exec (.addrDev pid) s = .next { s with roff := r.offset, rwid := r.width, status := 0 }) ∧
    ((∀ r ∈ s.tables.devparams, r.id ≠ pid) →
      answersUpToPend (exec (.addrDev pid) s) { s with status := 1, phase := .idle })

/-- Rules R92 to R94: ADDR_SERVO's encoding, and `ch * 9 + 30 + field_offset` with the tabulated width; the channel is checked
first.  The premises are those of rules R16 and R95 on the table. -/
def Obligations.AddrServoCompletes : Prop :=
  selects 0x3 (fun p => .addrServo (bField p.head) (argLow8 (aField p.head))) ∧
  ∀ (ch fid : Byte) (s : State), paramTableWellFormed s.tables.fields → fieldOffsetsFit s.tables →
    (∀ r ∈ s.tables.fields, ch.toNat < s.nch.toNat → r.id = fid →
      ∃ t, exec (.addrServo ch fid) s = .next t ∧ t = { s with roff := t.roff, rwid := r.width, status := 0 } ∧
        t.roff.toNat = ch.toNat * 9 + 30 + r.offset.toNat) ∧
    (ch.toNat < s.nch.toNat → (∀ r ∈ s.tables.fields, r.id ≠ fid) →
      answersUpToPend (exec (.addrServo ch fid) s) { s with status := 1, phase := .idle }) ∧
    (s.nch.toNat ≤ ch.toNat → answersUpToPend (exec (.addrServo ch fid) s) { s with status := 2, phase := .idle })

/-! ### Framing and the code table (42_framing.md) -/

/-- Rules R61 and R62, with the lengths and bounds of rule R123. -/
def Obligations.FramesHaveTheTwoFormats : Prop :=
  ∀ (devid opc : Byte) (ops : List Byte),
    frame .compact devid opc ops = [opc] ++ ops ∧
    frame .addressed devid opc ops = [0xAA, devid &&& 0x7F, opc &&& 0x7F] ++ ops ∧
    (frame .compact devid opc ops).length = 1 + ops.length ∧
    (frame .addressed devid opc ops).length = 3 + ops.length ∧
    (ops.length ≤ 15 → 1 ≤ (frame .compact devid opc ops).length ∧ (frame .compact devid opc ops).length ≤ 16 ∧
      3 ≤ (frame .addressed devid opc ops).length ∧ (frame .addressed devid opc ops).length ≤ 18)

/-- What the spec itself derives from rule R121 (rule R124, "[derived: from rule R121]"), and the aliasing of rule R125. -/
def Obligations.FramesIdentifyTheirCommand : Prop :=
  ∀ (devid opc opc' : Byte) (ops ops' : List Byte),
    (frame .compact devid opc ops = frame .compact devid opc' ops' ↔ opc = opc' ∧ ops = ops') ∧
    (frame .addressed devid opc ops = frame .addressed devid opc' ops' ↔ opc &&& 0x7F = opc' &&& 0x7F ∧ ops = ops') ∧
    (frame .compact devid opc ops).drop 1 = (frame .addressed devid opc ops).drop 3 ∧
    (frame .addressed devid opc ops)[0]? = some 0xAA ∧
    (∃ b1 b2 : Byte, (frame .addressed devid opc ops)[1]? = some b1 ∧ (frame .addressed devid opc ops)[2]? = some b2 ∧
      b1.toNat < 0x80 ∧ b2.toNat < 0x80) ∧
    (∃ o o' : Byte, o ≠ o' ∧ ∀ xs, frame .addressed devid o xs = frame .addressed devid o' xs)

/-- Rule R126: ENCODE's encoding; it builds the frame in `TXBUF` and sends nothing. -/
def Obligations.EncodeCompletes : Prop :=
  selects 0x4 (fun p => .encode (bField p.head) p.ops) ∧
  ∀ (opc : Byte) (ops : List Byte) (s : State), ops.length ≤ 15 → Memory.wf txCap s.txbuf →
    ∃ t, exec (.encode opc ops) s = .next t ∧ t = { s with txbuf := t.txbuf, txlen := t.txlen, status := 0 } ∧
      t.txlen.toNat = (frame s.variant s.devid opc ops).length ∧
      ∀ i, memRead t.txbuf i = (frame s.variant s.devid opc ops).getD i (memRead s.txbuf i)

/-- The model's choice (log entry 9): a term with more operand bytes than any packet can carry stops by name. -/
def Obligations.OverlongOperandListsStop : Prop :=
  ∀ (opc : Byte) (ops : List Byte) (n : BitVec 2) (s : State), 15 < ops.length →
    ∀ i ∈ [Instr.encode opc ops, .xfer opc ops n, .getScriptStatus ops, .stopScript ops, .restartScriptAtSubroutine ops,
        .restartScriptAtSubroutineWithParameter ops], exec i s = .fault .operandOverflow

/-- Rule R130: CODE_OF's encoding, the opcode byte of each of the 11 rows, `0x84` for row 0, and the failure for every other
index. -/
def Obligations.CodeOfCompletes : Prop :=
  selects 0x5 (fun p => .codeOf (bField p.head)) ∧
  ∀ (idx : Byte) (s : State),
    (idx.toNat ≤ 10 → ∃ r, (cmdtab s.tables)[idx.toNat]? = some r ∧
      exec (.codeOf idx) s = .next { s with rval := r.value.setWidth 16, status := 0 }) ∧
    (idx = 0 → exec (.codeOf idx) s = .next { s with rval := 0x0084, status := 0 }) ∧
    (10 < idx.toNat → answersUpToPend (exec (.codeOf idx) s) { s with status := 1, phase := .idle })

/-- Rule R131: NAME_OF's encoding; it finds the one row with the byte, or reports that there is none, and never fails.  The
premise is rule R15's: the values are pairwise different. -/
def Obligations.NameOfCompletes : Prop :=
  selects 0x6 (fun p => .nameOf (bField p.head)) ∧
  ∀ (byte : Byte) (s : State), opcodesDistinct s.tables →
    (∀ (i : Nat) (r : Config.CmdRow), (cmdtab s.tables)[i]? = some r → r.value = byte →
      exec (.nameOf byte) s = .next { s with hit := true, rb0 := BitVec.ofNat 8 i, status := 0 }) ∧
    ((∀ r ∈ cmdtab s.tables, r.value ≠ byte) → exec (.nameOf byte) s = .next { s with hit := false, status := 0 })

/-- The law of the code table (rules R15, R130, R131): CODE_OF an index, then NAME_OF the value, finds the index. -/
def Obligations.NameOfInvertsCodeOf : Prop :=
  ∀ (idx : Byte) (s : State), opcodesDistinct s.tables → idx.toNat ≤ 10 →
    ∃ t u, exec (.codeOf idx) s = .next t ∧ exec (.nameOf (t.rval.extractLsb' 0 8)) t = .next u ∧
      u = { s with rval := t.rval, hit := true, rb0 := idx, status := 0 }

/-! ### Response decoding (44_decode.md) -/

/-- Rules R183 and R184: DEC_ERRORS's encoding, the error word, the nine named conditions, each on the bit that rule R17
gives its name, and the seven reserved bits; never a failure. -/
def Obligations.DecErrorsCompletes : Prop :=
  selects 0x7 (fun p => .decErrors (bField p.head) (argLow8 (aField p.head))) ∧
  ∀ (b0 b1 : Byte) (s : State), ∃ t, exec (.decErrors b0 b1) s = .next t ∧
    t = { s with rval := t.rval, errknown := t.errknown, errunrec := t.errunrec, status := 0 } ∧
    t.rval.toNat = b0.toNat ||| (b1.toNat <<< errShiftAmount s.tables.errShift) ∧
    (∀ c, conditionReported c t = t.rval.getLsbD (conditionBit c)) ∧
    conditionReported .serialSignal t = t.rval.getLsbD 0 ∧ conditionReported .serialOverrun t = t.rval.getLsbD 1 ∧
    conditionReported .serialBufferFull t = t.rval.getLsbD 2 ∧ conditionReported .serialCrc t = t.rval.getLsbD 3 ∧
    conditionReported .serialProtocol t = t.rval.getLsbD 4 ∧ conditionReported .serialTimeout t = t.rval.getLsbD 5 ∧
    conditionReported .scriptStack t = t.rval.getLsbD 6 ∧ conditionReported .scriptCallStack t = t.rval.getLsbD 7 ∧
    conditionReported .scriptProgramCounter t = t.rval.getLsbD 8 ∧
    (∀ i, i < 9 → t.errknown.getLsbD i = t.rval.getLsbD i) ∧
    (∀ j, j < 7 → t.errunrec.getLsbD j = t.rval.getLsbD (9 + j))

/-- Rule R185 on the two readings: where conditions 7 and 8 come from, and when the readings agree. -/
def Obligations.ErrShiftReadings : Prop :=
  ∀ b0 b1 : Byte,
    (errorWord .seven b0 b1).getLsbD 7 = (b0.getLsbD 7 || b1.getLsbD 0) ∧
    (errorWord .seven b0 b1).getLsbD 8 = b1.getLsbD 1 ∧
    (errorWord .eight b0 b1).getLsbD 7 = b0.getLsbD 7 ∧
    (errorWord .eight b0 b1).getLsbD 8 = b1.getLsbD 0 ∧
    (errorWord .seven b0 b1).getLsbD 15 = false ∧
    (errorWord .seven b0 b1 = errorWord .eight b0 b1 ↔ b1 = 0)

/-! ### Transactions (43_commands.md) -/

/-- Rule R147: the issue step, its check first. -/
def Obligations.IssueStep : Prop :=
  ∀ (opc : Byte) (ops : List Byte) (n : BitVec 2) (kind : PendKind) (s : State), ops.length ≤ 15 →
    Memory.wf txCap s.txbuf →
    (∀ e, answersUpToPend (issue (some e) opc ops n kind s) { s with status := errorCode e, phase := .idle }) ∧
    ∃ t, issue none opc ops n kind s = .next t ∧ leavesIssue s t (frame s.variant s.devid opc ops) kind n

/-- Rules R153 and R155 to R157, the issue step of the three SET operations. -/
def Obligations.SetOperationsIssue : Prop :=
  issuesChannelValue .setTarget (fun _ => 0x84) ∧ issuesChannelValue .setSpeed (fun t => t.opcSetSpeed) ∧
  issuesChannelValue .setAcceleration (fun t => t.opcSetAcceleration)

/-- Rule R158, the issue step: a valid channel is sent, `ChannelOutOfRange` otherwise. -/
def Obligations.GetPositionIssues : Prop :=
  ∀ (ch : Byte) (s : State), Memory.wf txCap s.txbuf →
    (ch.toNat < s.nch.toNat → ∃ t, exec (.getPosition ch) s = .next t ∧
      leavesIssue s t (frame s.variant s.devid s.tables.opcGetPosition [ch]) .position 2) ∧
    (s.nch.toNat ≤ ch.toNat → answersUpToPend (exec (.getPosition ch) s) { s with status := 2, phase := .idle })

/-- Rules R159 to R161, the issue step of the operations without operands. -/
def Obligations.BareOpcodesIssue : Prop :=
  issuesBareOpcode .getMovingState (fun t => t.opcGetMovingState) .moving 1 ∧
  issuesBareOpcode .getErrors (fun t => t.opcGetErrors) .errors 2 ∧
  issuesBareOpcode .goHome (fun t => t.opcGoHome) .none 0

/-- Rule R154, the issue step: any opcode with any operand bytes, the response length as the host asks. -/
def Obligations.XferIssues : Prop :=
  ∀ (opc : Byte) (ops : List Byte) (n : BitVec 2) (s : State), ops.length ≤ 15 → Memory.wf txCap s.txbuf →
    ∃ t, exec (.xfer opc ops n) s = .next t ∧ leavesIssue s t (frame s.variant s.devid opc ops) .raw n

/-- Rules R76 and R162 to R165: each script pseudo-operation issues its own row, and acts as the XFER it expands to. -/
def Obligations.ScriptOperationsIssue : Prop :=
  issuesScriptRow .getScriptStatus (fun t => t.getScriptStatus) ∧
  issuesScriptRow .stopScript (fun t => t.stopScript) ∧
  issuesScriptRow .restartScriptAtSubroutine (fun t => t.restartScript) ∧
  issuesScriptRow .restartScriptAtSubroutineWithParameter (fun t => t.restartScriptWithParameter) ∧
  ∀ (i : Instr) (s : State), exec i s = exec (expand s.tables i) s

/-- Rule R148, as a step of the machine; where the transaction ends, `PEND` is left open (rules R28, R207). -/
def Obligations.TransmitAnswerStep : Prop :=
  ∀ (s : State) (rest : List Input), s.phase = .tx → s.resetAsserted = false →
    (s.inputs = .txAnswer .ioerr :: rest →
      answersUpToPend (step s) { s with status := 4, phase := .idle, inputs := rest }) ∧
    (s.inputs = .txAnswer .ok :: rest → s.pend.n = 0 →
      answersUpToPend (step s) { s with rxlen := 0, status := 0, phase := .idle, inputs := rest }) ∧
    (s.inputs = .txAnswer .ok :: rest → s.pend.n ≠ 0 →
      step s = .next { s with phase := .rx, inputs := rest,
                              transportLog := s.transportLog ++ [.rxRequest s.pend.n.toNat s.tables.timeout] })

/-- Rules R149 and R150, the answers that fail, as a step of the machine; `PEND` is left open (rule R207). -/
def Obligations.ReceiveFailuresKeepNothing : Prop :=
  ∀ (s : State) (rest : List Input), s.phase = .rx → s.resetAsserted = false →
    (s.inputs = .rxAnswer .ioerr :: rest →
      answersUpToPend (step s) { s with status := 4, phase := .idle, inputs := rest }) ∧
    (s.inputs = .rxAnswer .timeout :: rest →
      answersUpToPend (step s) { s with status := 5, phase := .idle, inputs := rest }) ∧
    (∀ bs, s.inputs = .rxAnswer (.ok bs) :: rest → bs.length ≠ s.pend.n.toNat →
      answersUpToPend (step s) { s with status := 6, phase := .idle, inputs := rest })

/-- Rules R149 and R181 to R183, a complete answer, as a step of the machine: the bytes go to `RXBUF`, and `PEND.kind` says
which registers are decoded from them.  The premises are parts of the invariant `Inv`; `PEND` is left open (rule R28).  That
kind `NONE` decodes nothing is the model's (log entry 21): rule R149 has no such case, and no run reaches it. -/
def Obligations.ReceivedResponseIsDecoded : Prop :=
  ∀ (s : State) (bs : List Byte) (rest : List Input), s.phase = .rx → s.resetAsserted = false →
    Memory.wf maxResp s.rxbuf → pendLegal s.pend → s.inputs = .rxAnswer (.ok bs) :: rest → bs.length = s.pend.n.toNat →
    ∃ t, step s = .next t ∧
      t = { s with status := 0, phase := .idle, inputs := rest, rxbuf := t.rxbuf, rxlen := s.pend.n, pend := t.pend, rval := t.rval,
                   moving := t.moving, errknown := t.errknown, errunrec := t.errunrec } ∧
      (∀ i, memRead t.rxbuf i = bs.getD i (memRead s.rxbuf i)) ∧
      (s.pend.kind = .raw ∨ s.pend.kind = .none →
        t.rval = s.rval ∧ t.moving = s.moving ∧ t.errknown = s.errknown ∧ t.errunrec = s.errunrec) ∧
      (s.pend.kind = .position → ∃ b0 b1, bs = [b0, b1] ∧ t.rval.toNat = b0.toNat ||| (b1.toNat <<< 7) ∧
        t.moving = s.moving ∧ t.errknown = s.errknown ∧ t.errunrec = s.errunrec) ∧
      (s.pend.kind = .moving → ∃ b0, bs = [b0] ∧ t.rval.toNat = b0.toNat ∧ (t.moving = true ↔ b0 ≠ 0) ∧
        t.errknown = s.errknown ∧ t.errunrec = s.errunrec) ∧
      (s.pend.kind = .errors → ∃ b0 b1, bs = [b0, b1] ∧
        t.rval.toNat = b0.toNat ||| (b1.toNat <<< errShiftAmount s.tables.errShift) ∧
        t.errknown = t.rval.extractLsb' 0 9 ∧ t.errunrec = t.rval.extractLsb' 9 7 ∧ t.moving = s.moving)

/-- Rule R158 from the command port to the result, under the answers `tx ok` and `rx ok [b0, b1]` (rules R147 to R149, R181). -/
def Obligations.GetPositionTransaction : Prop :=
  ∀ (s : State) (p : Packet) (ch b0 b1 : Byte) (rest : List Input), ready s = true → Inv s →
    s.inputs = .command p :: .txAnswer .ok :: .rxAnswer (.ok [b0, b1]) :: rest → decode p = .ok (.getPosition ch) →
    ch.toNat < s.nch.toNat →
    ∃ t, runSteps 3 s = .next t ∧
      t = { s with status := 0, rval := t.rval, txbuf := t.txbuf, txlen := t.txlen, rxbuf := t.rxbuf, rxlen := 2,
                   pend := t.pend, inputs := rest,
                   transportLog := s.transportLog ++
                     [.txSend (frame s.variant s.devid s.tables.opcGetPosition [ch]), .rxRequest 2 s.tables.timeout] } ∧
      t.rval.toNat = b0.toNat ||| (b1.toNat <<< 7) ∧
      currentFrame t = frame s.variant s.devid s.tables.opcGetPosition [ch] ∧ memReadSeq t.rxbuf 2 = [b0, b1]

/-- Rule R159 from the command port to the result, under the answers `tx ok` and `rx ok [b0]` (rules R147 to R149, R182). -/
def Obligations.GetMovingStateTransaction : Prop :=
  ∀ (s : State) (p : Packet) (b0 : Byte) (rest : List Input), ready s = true → Inv s →
    s.inputs = .command p :: .txAnswer .ok :: .rxAnswer (.ok [b0]) :: rest → decode p = .ok .getMovingState →
    ∃ t, runSteps 3 s = .next t ∧
      t = { s with status := 0, rval := t.rval, moving := t.moving, txbuf := t.txbuf, txlen := t.txlen, rxbuf := t.rxbuf,
                   rxlen := 1, pend := t.pend, inputs := rest,
                   transportLog := s.transportLog ++
                     [.txSend (frame s.variant s.devid s.tables.opcGetMovingState []), .rxRequest 1 s.tables.timeout] } ∧
      t.rval.toNat = b0.toNat ∧ (t.moving = true ↔ b0 ≠ 0) ∧
      currentFrame t = frame s.variant s.devid s.tables.opcGetMovingState [] ∧ memReadSeq t.rxbuf 1 = [b0]

/-- Rule R160 from the command port to the result, under the answers `tx ok` and `rx ok [b0, b1]` (rules R147 to R149, R183). -/
def Obligations.GetErrorsTransaction : Prop :=
  ∀ (s : State) (p : Packet) (b0 b1 : Byte) (rest : List Input), ready s = true → Inv s →
    s.inputs = .command p :: .txAnswer .ok :: .rxAnswer (.ok [b0, b1]) :: rest → decode p = .ok .getErrors →
    ∃ t, runSteps 3 s = .next t ∧
      t = { s with status := 0, rval := t.rval, errknown := t.errknown, errunrec := t.errunrec, txbuf := t.txbuf,
                   txlen := t.txlen, rxbuf := t.rxbuf, rxlen := 2, pend := t.pend, inputs := rest,
                   transportLog := s.transportLog ++
                     [.txSend (frame s.variant s.devid s.tables.opcGetErrors []), .rxRequest 2 s.tables.timeout] } ∧
      t.rval.toNat = b0.toNat ||| (b1.toNat <<< errShiftAmount s.tables.errShift) ∧
      t.errknown = t.rval.extractLsb' 0 9 ∧ t.errunrec = t.rval.extractLsb' 9 7 ∧
      currentFrame t = frame s.variant s.devid s.tables.opcGetErrors [] ∧ memReadSeq t.rxbuf 2 = [b0, b1]

/-- Rule R155 from the command port to the end, under the answer `tx ok` (rules R147, R148). -/
def Obligations.SetTargetTransaction : Prop :=
  ∀ (s : State) (p : Packet) (ch : Byte) (a : Arg16) (rest : List Input), ready s = true → Inv s →
    s.inputs = .command p :: .txAnswer .ok :: rest → decode p = .ok (.setTarget ch a) → fits14 a →
    ∃ t, runSteps 2 s = .next t ∧
      t = { s with status := 0, txbuf := t.txbuf, txlen := t.txlen, rxlen := 0, pend := t.pend, inputs := rest,
                   transportLog := s.transportLog ++
                     [.txSend (frame s.variant s.devid 0x84 [ch, lowSeven a, highSeven a])] } ∧
      currentFrame t = frame s.variant s.devid 0x84 [ch, lowSeven a, highSeven a]

/-- Rules R147 and R148 for every command that expects no response (the SET operations in range, GO_HOME, an XFER of response
length 0): under the answer `tx ok` it ends with its frame sent, `RXLEN = 0` and nothing else written. -/
def Obligations.CommandsWithoutResponseEnd : Prop :=
  ∀ (s : State) (p : Packet) (i : Instr) (f : List Byte) (rest : List Input), ready s = true → Inv s →
    s.inputs = .command p :: .txAnswer .ok :: rest → decode p = .ok i → responseLength s.tables i = some 0 →
    wireFrame s.tables s.variant s.devid i = some f →
    ∃ t, runSteps 2 s = .next t ∧
      t = { s with status := 0, txbuf := t.txbuf, txlen := t.txlen, rxlen := 0, pend := t.pend, inputs := rest,
                   transportLog := s.transportLog ++ [.txSend f] } ∧
      currentFrame t = f

/-- Rule R154 from the command port to the result, when a response is expected and `tx ok` and a complete response come: the
bytes are left raw in `RXBUF` and nothing is decoded (rules R147 to R149). -/
def Obligations.XferTransaction : Prop :=
  ∀ (s : State) (p : Packet) (opc : Byte) (ops : List Byte) (n : BitVec 2) (bs : List Byte) (rest : List Input),
    ready s = true → Inv s → s.inputs = .command p :: .txAnswer .ok :: .rxAnswer (.ok bs) :: rest →
    decode p = .ok (.xfer opc ops n) → n ≠ 0 → bs.length = n.toNat →
    ∃ t, runSteps 3 s = .next t ∧
      t = { s with status := 0, txbuf := t.txbuf, txlen := t.txlen, rxbuf := t.rxbuf, rxlen := n, pend := t.pend,
                   inputs := rest,
                   transportLog := s.transportLog ++
                     [.txSend (frame s.variant s.devid opc ops), .rxRequest n.toNat s.tables.timeout] } ∧
      currentFrame t = frame s.variant s.devid opc ops ∧ ∀ i, memRead t.rxbuf i = bs.getD i (memRead s.rxbuf i)

/-- Rules R140, R145 and R152: an accepted command is over after at most two answers of the transport, whatever they are; it
has made at most one send followed by at most one read, and no command is left running. -/
def Obligations.EveryCommandEndsAfterTwoAnswers : Prop :=
  ∀ (s : State) (p : Packet) (a : TxAnswer) (r : RxAnswer), ready s = true → packetWellFormed p →
    s.inputs = [.command p, .txAnswer a, .rxAnswer r] →
    ∃ t, runSteps 3 s = .next t ∧ ready t = true ∧ commandsIn t.inputs = [] ∧
      (t.transportLog = s.transportLog ∨ (∃ f, t.transportLog = s.transportLog ++ [.txSend f]) ∨
        ∃ f n, 1 ≤ n ∧ n ≤ 3 ∧ t.transportLog = s.transportLog ++ [.txSend f, .rxRequest n s.tables.timeout])

/-- Rule R205, the blank cells: no operation ends with a status outside its row, whatever the transport answers. -/
def Obligations.OperationsEndWithTheirStatuses : Prop :=
  ∀ (s t : State) (p : Packet) (i : Instr) (a : TxAnswer) (r : RxAnswer), ready s = true →
    s.inputs = [.command p, .txAnswer a, .rxAnswer r] → decode p = .ok i →
    runSteps 3 s = .next t → t.status ∈ statuses s.tables i

/-- Rules R29 and R207: an operation that ends with an error has written no result register and no byte of `RXBUF`. -/
def Obligations.FailuresKeepEveryResult : Prop :=
  ∀ (s t : State) (p : Packet) (a : TxAnswer) (r : RxAnswer), ready s = true →
    s.inputs = [.command p, .txAnswer a, .rxAnswer r] →
    runSteps 3 s = .next t → t.status ≠ 0 → resultsKept s t

/-- Rules R65 and R141: what a transaction operation sends is the frame of its row of the wire command map, and nothing else
is ever sent when an operation is accepted. -/
def Obligations.OperationsSendTheirWireFrame : Prop :=
  ∀ (i : Instr) (s t : State), exec i s = .next t → t.transportLog ≠ s.transportLog →
    ∃ f, wireFrame s.tables s.variant s.devid i = some f ∧ t.transportLog = s.transportLog ++ [.txSend f]

/-- Part 4 of 95_test_vectors.md, property 3: in the Addressed format every byte of a SET frame but the lead byte and the
channel byte is below `0x80` (rules R64, R121). -/
def Obligations.SetFramesKeepBitSevenClear : Prop :=
  ∀ (t : Config.Tables) (devid ch : Byte) (a : Arg16) (f : List Byte) (j : Nat) (b : Byte),
    (wireFrame t .addressed devid (.setTarget ch a) = some f ∨ wireFrame t .addressed devid (.setSpeed ch a) = some f ∨
      wireFrame t .addressed devid (.setAcceleration ch a) = some f) →
    f[j]? = some b → j ≠ 0 → j ≠ 3 → b.toNat < 0x80

/-! ### Errors, reset and the command port -/

/-- Rules R196 and R207: raising an error writes its code, one of 1 to 6 and different for each kind, and returns to IDLE, with
`PEND` left open ("`PEND` becomes don't-care"). -/
def Obligations.RaisingAnError : Prop :=
  (∀ (e : ErrorKind) (s : State),
    raiseError e s = { s with status := errorCode e, phase := .idle, pend := (raiseError e s).pend } ∧
    ready (raiseError e s) = !s.resetAsserted) ∧
  errorCode .unknownParameter = 1 ∧ errorCode .channelOutOfRange = 2 ∧ errorCode .valueOutOfRange = 3 ∧
  errorCode .ioError = 4 ∧ errorCode .responseTimeout = 5 ∧ errorCode .protocolError = 6

/-- Rule R30: what the machine holds right after reset; the straps and the tables are the OPEN constants of the configuration
(log entries 1 and 2). -/
def Obligations.ResetState : Prop :=
  State.reset.variant = Config.straps.variant ∧ State.reset.devid = Config.straps.devid ∧
  State.reset.nch = Config.straps.nch ∧ State.reset.tables = Config.tables ∧
  State.reset.status = 0 ∧ State.reset.rval = 0 ∧ State.reset.rb0 = 0 ∧ State.reset.rb1 = 0 ∧ State.reset.roff = 0 ∧
  State.reset.rwid = 0 ∧ State.reset.hit = false ∧ State.reset.moving = false ∧ State.reset.errknown = 0 ∧
  State.reset.errunrec = 0 ∧ State.reset.txlen = 0 ∧ State.reset.rxlen = 0 ∧
  (∀ i, memRead State.reset.txbuf i = 0) ∧ (∀ i, memRead State.reset.rxbuf i = 0) ∧
  State.reset.phase = .idle ∧ ready State.reset = true ∧ busy State.reset = false ∧ State.reset.transportLog = []

/-- Rules R230 to R232: the release of reset, in any state, samples the straps, puts every other register but
`PEND` at its reset value, keeps the tables and sends nothing (rule R30: `PEND` is don't care). -/
def Obligations.ReleaseOfReset : Prop :=
  ∀ (s : State) (st : Config.Straps) (rest : List Input), s.resetAsserted = true → s.inputs = .resetRelease st :: rest →
    ∃ t, step s = .next t ∧
      t = { State.resetWith st s.tables with inputs := rest, transportLog := s.transportLog, pend := t.pend } ∧
      ready t = true

/-- Rule R230: while reset is asserted the block is not ready, and only the release is taken: every other input waits and no
request is made.  That the registers keep their values meanwhile is the model's choice (log entry 11), and so is that a step
with nothing to take changes nothing (log entry 5). -/
def Obligations.AssertedResetHoldsTheBlock : Prop :=
  ∀ s : State, s.resetAsserted = true → (∀ st, .resetRelease st ∉ s.inputs) → ready s = false ∧ step s = .next s

/-- Reset can come in any phase (rule R232): with reset not asserted its assertion is taken first and changes its
level alone.  That the registers keep their values until the release is the model's choice (log entry 11). -/
def Obligations.ResetIsTakenInAnyPhase : Prop :=
  ∀ (s : State) (rest : List Input), s.resetAsserted = false → s.inputs = .resetAssert :: rest →
    step s = .next { s with resetAsserted := true, inputs := rest }

/-- Rule R70: a step of a block that is not ready accepts no command, loses none and keeps their order. -/
def Obligations.CommandsWaitWhileBusy : Prop :=
  ∀ s t : State, ready s = false → step s = .next t → commandsIn t.inputs = commandsIn s.inputs

/-- A block that is ready accepts the first command that waits, and no later one (rule R70: in the order accepted). -/
def Obligations.CommandsAreTakenInOrder : Prop :=
  ∀ s t : State, step s = .next t →
    commandsIn t.inputs = commandsIn s.inputs ∨ ∃ p, commandsIn s.inputs = p :: commandsIn t.inputs

/-- The block waits, with nothing changed, while no input is one it can take (rules R70, R145).  That a step
without an input changes nothing is the model's choice (log entry 5). -/
def Obligations.BlockWaitsForItsInput : Prop :=
  ∀ s : State, (∀ x ∈ s.inputs, inputEnabled s x = false) → step s = .next s

/-- Rule R70: a step that accepts a packet runs the operation it decodes to, with the packet taken from the port. -/
def Obligations.StepRunsTheDecodedOperation : Prop :=
  ∀ (s : State) (before after : List Input) (p : Packet) (i : Instr), ready s = true →
    s.inputs = before ++ .command p :: after → (∀ x ∈ before, inputEnabled s x = false) → decode p = .ok i →
    step s = exec i { s with inputs := before ++ after }

/-- Rules R10 to R13 and R52: no step changes a table, and no step but the release of reset changes a strap. -/
def Obligations.ConfigurationIsConstant : Prop :=
  ∀ s t : State, step s = .next t → t.tables = s.tables ∧
    ((s.resetAsserted = false ∨ ∀ st, .resetRelease st ∉ s.inputs) →
      t.variant = s.variant ∧ t.devid = s.devid ∧ t.nch = s.nch)

/-- Rules R9, R27 and R90: a pure operation completes, stays off the transport and off `RXBUF`, and leaves the phase IDLE.  That
`PEND` keeps its value where one raises an error is the model's choice (log entry 12). -/
def Obligations.PureOperationsStayOffTheTransport : Prop :=
  ∀ (i : Instr) (s : State), isPure i = true → wellFormed i → s.phase = .idle →
    ∃ t, exec i s = .next t ∧ t.phase = .idle ∧ t.pend = s.pend ∧ t.transportLog = s.transportLog ∧ t.inputs = s.inputs ∧
      t.rxbuf = s.rxbuf ∧ t.rxlen = s.rxlen ∧ t.variant = s.variant ∧ t.devid = s.devid ∧ t.nch = s.nch ∧
      t.tables = s.tables

/-- Rule R53: while the block is busy the host sees the frame in flight, which is the frame just sent, and every other register
as the previous operation left it. -/
def Obligations.BusyHostSeesTheOldResults : Prop :=
  (∀ (i : Instr) (s t : State), s.phase = .idle → exec i s = .next t → t.phase ≠ .idle →
    hostView t = { hostView s with txbuf := memReadSeq t.txbuf 18, txlen := t.txlen, ready := false, busy := true }) ∧
  (∀ (i : Instr) (s t : State), Memory.wf txCap s.txbuf → s.phase = .idle → exec i s = .next t → t.phase ≠ .idle →
    ∃ f, wireFrame s.tables s.variant s.devid i = some f ∧ t.transportLog = s.transportLog ++ [.txSend f] ∧
      currentFrame t = f ∧ (hostView t).txbuf.take (hostView t).txlen.toNat = f ∧
      ∀ j, memRead t.txbuf j = f.getD j (memRead s.txbuf j)) ∧
  (∀ s t : State, s.phase = .tx → step s = .next t → t.phase = .rx → hostView t = hostView s)

/-- Rule R28 and conflict C8: what `PEND` holds in phase IDLE reaches nothing that a step does or the host sees. -/
def Obligations.PendIsDeadWhileIdle : Prop :=
  ∀ (s t : State) (p : Pend), s.phase = .idle → step s = .next t →
    ∃ t', step { s with pend := p } = .next t' ∧ t' = { t with pend := t'.pend } ∧ hostView t' = hostView t ∧
      (t.phase ≠ .idle → t'.pend = t.pend)

/-! ### Encodings (30_encoding.md) -/

/-- Every operation survives the host encoding: it decodes to itself, and a pseudo-operation to its XFER (rules R71, R72, R76). -/
def Obligations.DecodeInvertsEncode : Prop :=
  ∀ (t : Config.Tables) (i : Instr), wellFormed i →
    decode (encode t i) = .ok (expand t i) ∧ (isPseudo i = false → decode (encode t i) = .ok i)

/-- Rule R73: every packet is an operation, and the fields an operation does not use are ignored. -/
def Obligations.NoCommandIsIllegal : Prop :=
  (∀ p : Packet, packetWellFormed p → ∃ i, decode p = .ok i ∧ wellFormed i) ∧
  ∀ (h h' : HeadWord) (ops ops' : List Byte), opField h = opField h' →
    ((opField h).toNat = 0x0 → aField h = aField h' → decodeHead h ops = decodeHead h' ops') ∧
    ((opField h).toNat ∈ [0x1, 0x3, 0x7] → bField h = bField h' → argLow8 (aField h) = argLow8 (aField h') →
      decodeHead h ops = decodeHead h' ops') ∧
    ((opField h).toNat ∈ [0x2, 0x5, 0x6, 0xC] → bField h = bField h' → decodeHead h ops = decodeHead h' ops') ∧
    ((opField h).toNat = 0x4 → bField h = bField h' → decodeHead h ops = decodeHead h' ops) ∧
    ((opField h).toNat = 0x8 → bField h = bField h' → argLow2 (aField h) = argLow2 (aField h') →
      decodeHead h ops = decodeHead h' ops) ∧
    ((opField h).toNat ∈ [0x9, 0xA, 0xB] → bField h = bField h' → aField h = aField h' →
      decodeHead h ops = decodeHead h' ops') ∧
    ((opField h).toNat ∈ [0xD, 0xE, 0xF] → decodeHead h ops = decodeHead h' ops')

/-- The 16 select codes of rule R72 and the fields each operation uses. -/
def Obligations.SelectCodesChooseTheOperation : Prop :=
  selects 0x0 (fun p => .pack16 (aField p.head)) ∧
  selects 0x1 (fun p => .unpack16 (bField p.head) (argLow8 (aField p.head))) ∧
  selects 0x2 (fun p => .addrDev (bField p.head)) ∧
  selects 0x3 (fun p => .addrServo (bField p.head) (argLow8 (aField p.head))) ∧
  selects 0x4 (fun p => .encode (bField p.head) p.ops) ∧
  selects 0x5 (fun p => .codeOf (bField p.head)) ∧
  selects 0x6 (fun p => .nameOf (bField p.head)) ∧
  selects 0x7 (fun p => .decErrors (bField p.head) (argLow8 (aField p.head))) ∧
  selects 0x8 (fun p => .xfer (bField p.head) p.ops (argLow2 (aField p.head))) ∧
  selects 0x9 (fun p => .setTarget (bField p.head) (aField p.head)) ∧
  selects 0xA (fun p => .setSpeed (bField p.head) (aField p.head)) ∧
  selects 0xB (fun p => .setAcceleration (bField p.head) (aField p.head)) ∧
  selects 0xC (fun p => .getPosition (bField p.head)) ∧
  selects 0xD (fun _ => .getMovingState) ∧ selects 0xE (fun _ => .getErrors) ∧ selects 0xF (fun _ => .goHome)

/-- Head words written out from rule R72 decode to the operations they stand for. -/
def Obligations.HeadWordsDecode : Prop :=
  decode ⟨0x00FF1770, []⟩ = .ok (.pack16 6000) ∧ decode ⟨0x1070AB2E, []⟩ = .ok (.unpack16 0x70 0x2E) ∧
  decode ⟨0x30050063, []⟩ = .ok (.addrServo 5 99) ∧ decode ⟨0x43840000, [0x00, 0x70, 0x2E]⟩ = .ok (.encode 0x84 [0, 0x70, 0x2E]) ∧
  decode ⟨0x70050000, []⟩ = .ok (.decErrors 5 0) ∧ decode ⟨0x8055FFFD, []⟩ = .ok (.xfer 0x55 [] 1) ∧
  decode ⟨0x9003FFFF, []⟩ = .ok (.setTarget 3 0xFFFF) ∧ decode ⟨0xC00B0000, []⟩ = .ok (.getPosition 11) ∧
  decode ⟨0xF1000000, [7]⟩ = .ok .goHome

/-- The two wire formats carry every command back to a receiver that knows the code table (rules R61, R62, R65, R66): in Compact
because the opcode values differ (rule R15), in Addressed if they still differ after the mask.  XFER is left out: its opcode
need be no row of the table.  The receiver is the model's (log entry 4); the block reads no frame (rule R67). -/
def Obligations.WireFramesCarryTheirCommand : Prop :=
  ∀ (t : Config.Tables) (devid : Byte) (i : Instr) (f : List Byte), (∀ opc ops n, i ≠ .xfer opc ops n) →
    (opcodesDistinct t → wireFrame t .compact devid i = some f → decodeFrame t .compact f = some i) ∧
    (maskedOpcodesDistinct t → wireFrame t .addressed devid i = some f → decodeFrame t .addressed f = some i)

/-! ### Invariants and safety -/

/-- Every step keeps the invariant: canonical buffers, `TXLEN` inside `TXBUF`, `STATUS` in `0 .. 6`, and outside IDLE a legal
`PEND` and the outstanding request (rules R18, R25, R27, R28, R143, R144). -/
def Obligations.StepKeepsInv : Prop := ∀ s t : State, Inv s → step s = .next t → Inv t

/-- The invariant holds right after reset. -/
def Obligations.InvHoldsAtReset : Prop := Inv State.reset

/-- Rule R195: as long as what the host presents are packets, no run ever stops, whatever the transport answers and whenever
reset comes. -/
def Obligations.RunsNeverStop : Prop :=
  ∀ (s : State) (k : Nat), inputsSafe s → ∃ t, runSteps k s = .next t
end

