-- ==== Sys2Proof/Laws/Decode.lean ====
section
/-! SUPPORT. The fields of a head word built from its fields, and what the decoder can answer. -/

namespace Sys2Proof

open Sys2Proof.Machine

@[simp] theorem opField_headWord (op : BitVec 4) (k : Nat) (b : Byte) (a : Arg16) : opField (headWord op k b a) = op := by
  apply BitVec.eq_of_getLsbD_eq
  intro i hi
  simp only [opField, headWord, BitVec.getLsbD_extractLsb', BitVec.getLsbD_append]
  simp [hi, show ¬ 28 + i < 16 by omega, show ¬ 28 + i - 16 < 8 by omega, show ¬ 28 + i - 16 - 8 < 4 by omega,
    show 28 + i - 16 - 8 - 4 = i by omega]

@[simp] theorem oplenField_headWord (op : BitVec 4) (k : Nat) (b : Byte) (a : Arg16) :
    oplenField (headWord op k b a) = BitVec.ofNat 4 k := by
  apply BitVec.eq_of_getLsbD_eq
  intro i hi
  simp only [oplenField, headWord, BitVec.getLsbD_extractLsb', BitVec.getLsbD_append]
  simp [hi, show ¬ 24 + i < 16 by omega, show ¬ 24 + i - 16 < 8 by omega, show 24 + i - 16 - 8 = i by omega]

@[simp] theorem bField_headWord (op : BitVec 4) (k : Nat) (b : Byte) (a : Arg16) : bField (headWord op k b a) = b := by
  apply BitVec.eq_of_getLsbD_eq
  intro i hi
  simp only [bField, headWord, BitVec.getLsbD_extractLsb', BitVec.getLsbD_append]
  simp [hi, show ¬ 16 + i < 16 by omega]

@[simp] theorem aField_headWord (op : BitVec 4) (k : Nat) (b : Byte) (a : Arg16) : aField (headWord op k b a) = a := by
  apply BitVec.eq_of_getLsbD_eq
  intro i hi
  simp only [aField, headWord, BitVec.getLsbD_extractLsb', BitVec.getLsbD_append]
  simp [hi]

@[simp] theorem argLow8_setWidth (b : Byte) : argLow8 (b.setWidth 16) = b := by
  apply BitVec.eq_of_getLsbD_eq
  intro i hi
  simp [argLow8, hi, show i < 16 by omega]

@[simp] theorem argLow2_setWidth (n : BitVec 2) : argLow2 (n.setWidth 16) = n := by
  apply BitVec.eq_of_getLsbD_eq
  intro i hi
  simp [argLow2, hi, show i < 16 by omega]

/-- The encoder gives a head word the number of operand bytes that follow it. -/
theorem packetWellFormed_headWord (op : BitVec 4) (b : Byte) (a : Arg16) {ops : List Byte} (h : ops.length ≤ maxOps) :
    packetWellFormed ⟨headWord op ops.length b a, ops⟩ := by
  have h' : ops.length ≤ 15 := h
  have := congrArg BitVec.toNat (oplenField_headWord op ops.length b a)
  rw [oplenField, BitVec.toNat_ofNat, Nat.mod_eq_of_lt (by omega)] at this
  exact this.symm

theorem decode_of_wf {p : Packet} (h : packetWellFormed p) : decode p = .ok (decodeHead p.head p.ops) := if_pos h

theorem decode_of_not_wf {p : Packet} (h : ¬ packetWellFormed p) : decode p = .error .operandCount := if_neg h

/-- A head word from the encoder decodes by its select code, with the operand bytes that follow it. -/
theorem decode_headWord (op : BitVec 4) (b : Byte) (a : Arg16) {ops : List Byte} (h : ops.length ≤ maxOps) :
    decode ⟨headWord op ops.length b a, ops⟩ = .ok (decodeHead (headWord op ops.length b a) ops) :=
  decode_of_wf (packetWellFormed_headWord op b a h)

/-- The same for an operation without operand bytes. -/
theorem decode_headWord_nil (op : BitVec 4) (b : Byte) (a : Arg16) :
    decode ⟨headWord op 0 b a, []⟩ = .ok (decodeHead (headWord op 0 b a) []) :=
  decode_headWord op b a (ops := []) (Nat.zero_le _)

/-- Everything the decoder that accepts can answer. -/
theorem decode_ok {p : Packet} {i : Instr} (h : decode p = .ok i) : packetWellFormed p ∧ i = decodeHead p.head p.ops := by
  by_cases hw : packetWellFormed p
  · rw [decode_of_wf hw] at h
    exact ⟨hw, (Except.ok.inj h).symm⟩
  · rw [decode_of_not_wf hw] at h
    cases h

end Sys2Proof
end

