-- ==== Sys2Proof/Laws/Memory.lean ====
section
/-! SUPPORT. The buffers: a read after a write, and the canonical form that every operation keeps. -/

namespace Sys2Proof.Machine

@[simp] theorem memRead_nil (i : Nat) : memRead [] i = 0 := rfl

theorem memRead_cons (a : Nat) (b : Byte) (rest : Memory) (i : Nat) :
    memRead ((a, b) :: rest) i = if a = i then b else memRead rest i := rfl

theorem Memory.wf_nil (cap : Nat) : Memory.wf cap [] := by simp [Memory.wf]

theorem Memory.wf_tail {cap : Nat} {c : Host.Cell} {rest : Memory} (h : Memory.wf cap (c :: rest)) :
    Memory.wf cap rest := by
  obtain ⟨hp, hb⟩ := h
  exact ⟨(List.pairwise_cons.mp hp).2, fun d hd => hb d (List.mem_cons_of_mem _ hd)⟩

theorem Memory.lt_of_wf_cons {cap : Nat} {c : Host.Cell} {rest : Memory} (h : Memory.wf cap (c :: rest)) :
    ∀ d ∈ rest, c.1 < d.1 := fun d hd =>
  (List.pairwise_cons.mp h.1).1 d.1 (List.mem_map_of_mem hd)

theorem Memory.wf_cons {cap : Nat} {c : Host.Cell} {rest : Memory} (hr : Memory.wf cap rest)
    (hlt : ∀ d ∈ rest, c.1 < d.1) (hc : c.1 < cap) (hz : c.2 ≠ 0) : Memory.wf cap (c :: rest) := by
  refine ⟨List.pairwise_cons.mpr ⟨?_, hr.1⟩, ?_⟩
  · intro a ha
    obtain ⟨d, hd, rfl⟩ := List.mem_map.mp ha
    exact hlt d hd
  · intro d hd
    rcases List.mem_cons.mp hd with rfl | hd
    · exact ⟨hc, hz⟩
    · exact hr.2 d hd

/-- An index below every listed one is unlisted, so it reads as 0. -/
theorem memRead_of_forall_lt {m : Memory} {i : Nat} (h : ∀ d ∈ m, i < d.1) : memRead m i = 0 := by
  induction m with
  | nil => rfl
  | cons c rest ih =>
    obtain ⟨a, b⟩ := c
    have ha : i < a := h (a, b) List.mem_cons_self
    rw [memRead_cons, if_neg (by omega)]
    exact ih fun d hd => h d (List.mem_cons_of_mem _ hd)

/-- The cells of a written buffer are old cells or the written one. -/
theorem mem_memWrite {m : Memory} {i : Nat} {b : Byte} {d : Host.Cell} (h : d ∈ memWrite m i b) :
    d ∈ m ∨ (d = (i, b) ∧ b ≠ 0) := by
  induction m with
  | nil =>
    simp only [memWrite] at h
    split at h
    · simp at h
    · exact .inr ⟨by simpa using h, ‹_›⟩
  | cons c rest ih =>
    obtain ⟨a, x⟩ := c
    simp only [memWrite] at h
    split at h
    · split at h
      · exact .inl h
      · rcases List.mem_cons.mp h with rfl | h
        · exact .inr ⟨rfl, ‹_›⟩
        · exact .inl h
    · split at h
      · split at h
        · exact .inl (List.mem_cons_of_mem _ h)
        · rcases List.mem_cons.mp h with rfl | h
          · exact .inr ⟨rfl, ‹_›⟩
          · exact .inl (List.mem_cons_of_mem _ h)
      · rcases List.mem_cons.mp h with rfl | h
        · exact .inl List.mem_cons_self
        · rcases ih h with h | h
          · exact .inl (List.mem_cons_of_mem _ h)
          · exact .inr h

/-- A write keeps the canonical form. -/
theorem memWrite_wf {cap : Nat} {m : Memory} (h : Memory.wf cap m) {i : Nat} (hi : i < cap) (b : Byte) :
    Memory.wf cap (memWrite m i b) := by
  induction m with
  | nil =>
    simp only [memWrite]
    split
    · exact h
    · exact Memory.wf_cons h (by simp) hi ‹_›
  | cons c rest ih =>
    obtain ⟨a, x⟩ := c
    have hrest := Memory.wf_tail h
    have hlt := Memory.lt_of_wf_cons h
    have hc := h.2 (a, x) List.mem_cons_self
    simp only [memWrite]
    split
    · split
      · exact h
      · refine Memory.wf_cons h (fun d hd => ?_) hi ‹_›
        rcases List.mem_cons.mp hd with rfl | hd
        · assumption
        · exact Nat.lt_trans ‹i < a› (hlt d hd)
    · split
      · subst i
        split
        · exact hrest
        · exact Memory.wf_cons hrest hlt hi ‹_›
      · refine Memory.wf_cons (ih hrest) (fun d hd => ?_) hc.1 hc.2
        rcases mem_memWrite hd with hd | ⟨rfl, -⟩
        · exact hlt d hd
        · show a < i
          omega

/-- A read after a write gives the value written at its own index and the old value everywhere else. -/
theorem memRead_memWrite {cap : Nat} {m : Memory} (h : Memory.wf cap m) (i : Nat) (b : Byte) (j : Nat) :
    memRead (memWrite m i b) j = if j = i then b else memRead m j := by
  induction m with
  | nil =>
    simp only [memWrite]
    split
    · subst b
      simp
    · rw [memRead_cons]
      by_cases hj : j = i
      · simp [hj]
      · simp [hj, Ne.symm hj]
  | cons c rest ih =>
    obtain ⟨a, x⟩ := c
    have hrest := Memory.wf_tail h
    have hlt := Memory.lt_of_wf_cons h
    simp only [memWrite]
    split
    · rename_i hia
      have hlt' : ∀ d ∈ ((a, x) :: rest), i < d.1 := by
        intro d hd
        rcases List.mem_cons.mp hd with rfl | hd
        · exact hia
        · exact Nat.lt_trans hia (hlt d hd)
      split
      · subst b
        split
        · subst j
          exact memRead_of_forall_lt hlt'
        · rfl
      · rw [memRead_cons]
        by_cases hj : j = i
        · simp [hj]
        · simp [hj, Ne.symm hj]
    · split
      · subst i
        split
        · subst b
          split
          · subst j
            exact memRead_of_forall_lt hlt
          · rw [memRead_cons, if_neg (fun e => ‹¬ j = a› e.symm)]
        · rw [memRead_cons, memRead_cons]
          by_cases hj : j = a
          · simp [hj]
          · simp [hj, Ne.symm hj]
      · rw [memRead_cons, memRead_cons, ih hrest]
        by_cases hj : a = j
        · subst hj
          simp [show ¬ a = i by omega]
        · simp [hj]

/-- A sequence write keeps the canonical form, if it stays inside the buffer. -/
theorem memWriteSeq_wf {cap : Nat} {m : Memory} (h : Memory.wf cap m) {i : Nat} {bs : List Byte}
    (hi : i + bs.length ≤ cap) : Memory.wf cap (memWriteSeq m i bs) := by
  induction bs generalizing m i with
  | nil => exact h
  | cons b rest ih =>
    simp only [List.length_cons] at hi
    exact ih (memWrite_wf h (by omega) b) (by omega)

/-- A read after a sequence write: the byte of the sequence inside the written range, the old byte outside it. -/
theorem memRead_memWriteSeq {cap : Nat} {m : Memory} (h : Memory.wf cap m) {i : Nat} {bs : List Byte}
    (hi : i + bs.length ≤ cap) (j : Nat) :
    memRead (memWriteSeq m i bs) j = if i ≤ j then bs.getD (j - i) (memRead m j) else memRead m j := by
  induction bs generalizing m i with
  | nil => simp [memWriteSeq]
  | cons b rest ih =>
    simp only [List.length_cons] at hi
    have hw := memWrite_wf h (show i < cap by omega) b
    rw [memWriteSeq, ih hw (by omega), memRead_memWrite h]
    rcases Nat.lt_trichotomy j i with hj | rfl | hj
    · simp [show ¬ i ≤ j by omega, show ¬ i + 1 ≤ j by omega, show ¬ j = i by omega]
    · simp
    · obtain ⟨k, rfl⟩ : ∃ k, j = i + 1 + k := ⟨j - (i + 1), by omega⟩
      rw [if_pos (show i + 1 ≤ i + 1 + k by omega), if_pos (show i ≤ i + 1 + k by omega),
        if_neg (show ¬ i + 1 + k = i by omega), show i + 1 + k - (i + 1) = k by omega,
        show i + 1 + k - i = k + 1 by omega]
      simp

/-- The buffer's first bytes after a write from index 0 are the bytes written. -/
theorem memReadSeq_memWriteSeq {cap : Nat} {m : Memory} (h : Memory.wf cap m) {bs : List Byte} (hl : bs.length ≤ cap) :
    memReadSeq (memWriteSeq m 0 bs) bs.length = bs := by
  apply List.ext_getElem
  · simp [memReadSeq]
  · intro n hn hn'
    simp only [memReadSeq, List.getElem_map, List.getElem_range]
    rw [memRead_memWriteSeq h (by omega)]
    simp [hn']

/-- Canonical buffers that read alike are equal. -/
theorem memory_ext {cap : Nat} {m m' : Memory} (h : Memory.wf cap m) (h' : Memory.wf cap m')
    (hr : ∀ i, memRead m i = memRead m' i) : m = m' := by
  induction m generalizing m' with
  | nil =>
    cases m' with
    | nil => rfl
    | cons c rest =>
      obtain ⟨a, x⟩ := c
      have := hr a
      simp only [memRead_nil, memRead_cons, if_true] at this
      exact absurd this.symm (h'.2 (a, x) List.mem_cons_self).2
  | cons c rest ih =>
    obtain ⟨a, x⟩ := c
    have hx := (h.2 (a, x) List.mem_cons_self).2
    cases m' with
    | nil =>
      have := hr a
      simp only [memRead_nil, memRead_cons, if_true] at this
      exact absurd this hx
    | cons c' rest' =>
      obtain ⟨a', x'⟩ := c'
      have hx' := (h'.2 (a', x') List.mem_cons_self).2
      have hlt := Memory.lt_of_wf_cons h
      have hlt' := Memory.lt_of_wf_cons h'
      have haa : a = a' := by
        rcases Nat.lt_trichotomy a a' with hl | he | hl
        · have := hr a
          rw [memRead_cons, if_pos rfl, memRead_cons, if_neg (by omega),
            memRead_of_forall_lt fun d hd => Nat.lt_trans hl (hlt' d hd)] at this
          exact absurd this hx
        · exact he
        · have := hr a'
          rw [memRead_cons, if_neg (by omega), memRead_of_forall_lt fun d hd => Nat.lt_trans hl (hlt d hd),
            memRead_cons, if_pos rfl] at this
          exact absurd this.symm hx'
      subst haa
      have hxx : x = x' := by simpa [memRead_cons] using hr a
      subst hxx
      rw [ih (Memory.wf_tail h) (Memory.wf_tail h') fun i => ?_]
      have := hr i
      rw [memRead_cons, memRead_cons] at this
      by_cases hi : a = i
      · subst hi
        rw [memRead_of_forall_lt hlt, memRead_of_forall_lt hlt']
      · simpa [hi] using this

end Sys2Proof.Machine
end

