-- ==== Sys2Proof/Laws/State.lean ====
section
/-! SUPPORT. One lemma per field per update of the state, each true by rfl, so that no proof unfolds a record update. -/

namespace Sys2Proof.Machine

open Sys2Proof.Config

variable (s : State)

section raiseErrorFields

variable (e : ErrorKind)

@[simp] theorem raiseError_variant : (raiseError e s).variant = s.variant := rfl
@[simp] theorem raiseError_devid : (raiseError e s).devid = s.devid := rfl
@[simp] theorem raiseError_nch : (raiseError e s).nch = s.nch := rfl
@[simp] theorem raiseError_tables : (raiseError e s).tables = s.tables := rfl
@[simp] theorem raiseError_status : (raiseError e s).status = errorCode e := rfl
@[simp] theorem raiseError_rval : (raiseError e s).rval = s.rval := rfl
@[simp] theorem raiseError_rb0 : (raiseError e s).rb0 = s.rb0 := rfl
@[simp] theorem raiseError_rb1 : (raiseError e s).rb1 = s.rb1 := rfl
@[simp] theorem raiseError_roff : (raiseError e s).roff = s.roff := rfl
@[simp] theorem raiseError_rwid : (raiseError e s).rwid = s.rwid := rfl
@[simp] theorem raiseError_hit : (raiseError e s).hit = s.hit := rfl
@[simp] theorem raiseError_moving : (raiseError e s).moving = s.moving := rfl
@[simp] theorem raiseError_errknown : (raiseError e s).errknown = s.errknown := rfl
@[simp] theorem raiseError_errunrec : (raiseError e s).errunrec = s.errunrec := rfl
@[simp] theorem raiseError_txbuf : (raiseError e s).txbuf = s.txbuf := rfl
@[simp] theorem raiseError_txlen : (raiseError e s).txlen = s.txlen := rfl
@[simp] theorem raiseError_rxbuf : (raiseError e s).rxbuf = s.rxbuf := rfl
@[simp] theorem raiseError_rxlen : (raiseError e s).rxlen = s.rxlen := rfl
@[simp] theorem raiseError_phase : (raiseError e s).phase = .idle := rfl
@[simp] theorem raiseError_pend : (raiseError e s).pend = s.pend := rfl
@[simp] theorem raiseError_resetAsserted : (raiseError e s).resetAsserted = s.resetAsserted := rfl
@[simp] theorem raiseError_inputs : (raiseError e s).inputs = s.inputs := rfl
@[simp] theorem raiseError_transportLog : (raiseError e s).transportLog = s.transportLog := rfl

end raiseErrorFields

section endOkFields

@[simp] theorem endOk_variant : (endOk s).variant = s.variant := rfl
@[simp] theorem endOk_devid : (endOk s).devid = s.devid := rfl
@[simp] theorem endOk_nch : (endOk s).nch = s.nch := rfl
@[simp] theorem endOk_tables : (endOk s).tables = s.tables := rfl
@[simp] theorem endOk_status : (endOk s).status = 0 := rfl
@[simp] theorem endOk_rval : (endOk s).rval = s.rval := rfl
@[simp] theorem endOk_rb0 : (endOk s).rb0 = s.rb0 := rfl
@[simp] theorem endOk_rb1 : (endOk s).rb1 = s.rb1 := rfl
@[simp] theorem endOk_roff : (endOk s).roff = s.roff := rfl
@[simp] theorem endOk_rwid : (endOk s).rwid = s.rwid := rfl
@[simp] theorem endOk_hit : (endOk s).hit = s.hit := rfl
@[simp] theorem endOk_moving : (endOk s).moving = s.moving := rfl
@[simp] theorem endOk_errknown : (endOk s).errknown = s.errknown := rfl
@[simp] theorem endOk_errunrec : (endOk s).errunrec = s.errunrec := rfl
@[simp] theorem endOk_txbuf : (endOk s).txbuf = s.txbuf := rfl
@[simp] theorem endOk_txlen : (endOk s).txlen = s.txlen := rfl
@[simp] theorem endOk_rxbuf : (endOk s).rxbuf = s.rxbuf := rfl
@[simp] theorem endOk_rxlen : (endOk s).rxlen = s.rxlen := rfl
@[simp] theorem endOk_phase : (endOk s).phase = s.phase := rfl
@[simp] theorem endOk_pend : (endOk s).pend = s.pend := rfl
@[simp] theorem endOk_resetAsserted : (endOk s).resetAsserted = s.resetAsserted := rfl
@[simp] theorem endOk_inputs : (endOk s).inputs = s.inputs := rfl
@[simp] theorem endOk_transportLog : (endOk s).transportLog = s.transportLog := rfl

end endOkFields

section endTransactionFields

@[simp] theorem endTransaction_variant : (endTransaction s).variant = s.variant := rfl
@[simp] theorem endTransaction_devid : (endTransaction s).devid = s.devid := rfl
@[simp] theorem endTransaction_nch : (endTransaction s).nch = s.nch := rfl
@[simp] theorem endTransaction_tables : (endTransaction s).tables = s.tables := rfl
@[simp] theorem endTransaction_status : (endTransaction s).status = 0 := rfl
@[simp] theorem endTransaction_rval : (endTransaction s).rval = s.rval := rfl
@[simp] theorem endTransaction_rb0 : (endTransaction s).rb0 = s.rb0 := rfl
@[simp] theorem endTransaction_rb1 : (endTransaction s).rb1 = s.rb1 := rfl
@[simp] theorem endTransaction_roff : (endTransaction s).roff = s.roff := rfl
@[simp] theorem endTransaction_rwid : (endTransaction s).rwid = s.rwid := rfl
@[simp] theorem endTransaction_hit : (endTransaction s).hit = s.hit := rfl
@[simp] theorem endTransaction_moving : (endTransaction s).moving = s.moving := rfl
@[simp] theorem endTransaction_errknown : (endTransaction s).errknown = s.errknown := rfl
@[simp] theorem endTransaction_errunrec : (endTransaction s).errunrec = s.errunrec := rfl
@[simp] theorem endTransaction_txbuf : (endTransaction s).txbuf = s.txbuf := rfl
@[simp] theorem endTransaction_txlen : (endTransaction s).txlen = s.txlen := rfl
@[simp] theorem endTransaction_rxbuf : (endTransaction s).rxbuf = s.rxbuf := rfl
@[simp] theorem endTransaction_rxlen : (endTransaction s).rxlen = s.rxlen := rfl
@[simp] theorem endTransaction_phase : (endTransaction s).phase = .idle := rfl
@[simp] theorem endTransaction_pend : (endTransaction s).pend = s.pend := rfl
@[simp] theorem endTransaction_resetAsserted : (endTransaction s).resetAsserted = s.resetAsserted := rfl
@[simp] theorem endTransaction_inputs : (endTransaction s).inputs = s.inputs := rfl
@[simp] theorem endTransaction_transportLog : (endTransaction s).transportLog = s.transportLog := rfl

end endTransactionFields

section setRvalFields

variable (v : BitVec 16)

@[simp] theorem setRval_variant : (setRval v s).variant = s.variant := rfl
@[simp] theorem setRval_devid : (setRval v s).devid = s.devid := rfl
@[simp] theorem setRval_nch : (setRval v s).nch = s.nch := rfl
@[simp] theorem setRval_tables : (setRval v s).tables = s.tables := rfl
@[simp] theorem setRval_status : (setRval v s).status = s.status := rfl
@[simp] theorem setRval_rval : (setRval v s).rval = v := rfl
@[simp] theorem setRval_rb0 : (setRval v s).rb0 = s.rb0 := rfl
@[simp] theorem setRval_rb1 : (setRval v s).rb1 = s.rb1 := rfl
@[simp] theorem setRval_roff : (setRval v s).roff = s.roff := rfl
@[simp] theorem setRval_rwid : (setRval v s).rwid = s.rwid := rfl
@[simp] theorem setRval_hit : (setRval v s).hit = s.hit := rfl
@[simp] theorem setRval_moving : (setRval v s).moving = s.moving := rfl
@[simp] theorem setRval_errknown : (setRval v s).errknown = s.errknown := rfl
@[simp] theorem setRval_errunrec : (setRval v s).errunrec = s.errunrec := rfl
@[simp] theorem setRval_txbuf : (setRval v s).txbuf = s.txbuf := rfl
@[simp] theorem setRval_txlen : (setRval v s).txlen = s.txlen := rfl
@[simp] theorem setRval_rxbuf : (setRval v s).rxbuf = s.rxbuf := rfl
@[simp] theorem setRval_rxlen : (setRval v s).rxlen = s.rxlen := rfl
@[simp] theorem setRval_phase : (setRval v s).phase = s.phase := rfl
@[simp] theorem setRval_pend : (setRval v s).pend = s.pend := rfl
@[simp] theorem setRval_resetAsserted : (setRval v s).resetAsserted = s.resetAsserted := rfl
@[simp] theorem setRval_inputs : (setRval v s).inputs = s.inputs := rfl
@[simp] theorem setRval_transportLog : (setRval v s).transportLog = s.transportLog := rfl

end setRvalFields

section setPackedFields

variable (b0 b1 : Byte)

@[simp] theorem setPacked_variant : (setPacked b0 b1 s).variant = s.variant := rfl
@[simp] theorem setPacked_devid : (setPacked b0 b1 s).devid = s.devid := rfl
@[simp] theorem setPacked_nch : (setPacked b0 b1 s).nch = s.nch := rfl
@[simp] theorem setPacked_tables : (setPacked b0 b1 s).tables = s.tables := rfl
@[simp] theorem setPacked_status : (setPacked b0 b1 s).status = s.status := rfl
@[simp] theorem setPacked_rval : (setPacked b0 b1 s).rval = s.rval := rfl
@[simp] theorem setPacked_rb0 : (setPacked b0 b1 s).rb0 = b0 := rfl
@[simp] theorem setPacked_rb1 : (setPacked b0 b1 s).rb1 = b1 := rfl
@[simp] theorem setPacked_roff : (setPacked b0 b1 s).roff = s.roff := rfl
@[simp] theorem setPacked_rwid : (setPacked b0 b1 s).rwid = s.rwid := rfl
@[simp] theorem setPacked_hit : (setPacked b0 b1 s).hit = s.hit := rfl
@[simp] theorem setPacked_moving : (setPacked b0 b1 s).moving = s.moving := rfl
@[simp] theorem setPacked_errknown : (setPacked b0 b1 s).errknown = s.errknown := rfl
@[simp] theorem setPacked_errunrec : (setPacked b0 b1 s).errunrec = s.errunrec := rfl
@[simp] theorem setPacked_txbuf : (setPacked b0 b1 s).txbuf = s.txbuf := rfl
@[simp] theorem setPacked_txlen : (setPacked b0 b1 s).txlen = s.txlen := rfl
@[simp] theorem setPacked_rxbuf : (setPacked b0 b1 s).rxbuf = s.rxbuf := rfl
@[simp] theorem setPacked_rxlen : (setPacked b0 b1 s).rxlen = s.rxlen := rfl
@[simp] theorem setPacked_phase : (setPacked b0 b1 s).phase = s.phase := rfl
@[simp] theorem setPacked_pend : (setPacked b0 b1 s).pend = s.pend := rfl
@[simp] theorem setPacked_resetAsserted : (setPacked b0 b1 s).resetAsserted = s.resetAsserted := rfl
@[simp] theorem setPacked_inputs : (setPacked b0 b1 s).inputs = s.inputs := rfl
@[simp] theorem setPacked_transportLog : (setPacked b0 b1 s).transportLog = s.transportLog := rfl

end setPackedFields

section setAddressFields

variable (off : BitVec 16) (wid : Byte)

@[simp] theorem setAddress_variant : (setAddress off wid s).variant = s.variant := rfl
@[simp] theorem setAddress_devid : (setAddress off wid s).devid = s.devid := rfl
@[simp] theorem setAddress_nch : (setAddress off wid s).nch = s.nch := rfl
@[simp] theorem setAddress_tables : (setAddress off wid s).tables = s.tables := rfl
@[simp] theorem setAddress_status : (setAddress off wid s).status = s.status := rfl
@[simp] theorem setAddress_rval : (setAddress off wid s).rval = s.rval := rfl
@[simp] theorem setAddress_rb0 : (setAddress off wid s).rb0 = s.rb0 := rfl
@[simp] theorem setAddress_rb1 : (setAddress off wid s).rb1 = s.rb1 := rfl
@[simp] theorem setAddress_roff : (setAddress off wid s).roff = off := rfl
@[simp] theorem setAddress_rwid : (setAddress off wid s).rwid = wid := rfl
@[simp] theorem setAddress_hit : (setAddress off wid s).hit = s.hit := rfl
@[simp] theorem setAddress_moving : (setAddress off wid s).moving = s.moving := rfl
@[simp] theorem setAddress_errknown : (setAddress off wid s).errknown = s.errknown := rfl
@[simp] theorem setAddress_errunrec : (setAddress off wid s).errunrec = s.errunrec := rfl
@[simp] theorem setAddress_txbuf : (setAddress off wid s).txbuf = s.txbuf := rfl
@[simp] theorem setAddress_txlen : (setAddress off wid s).txlen = s.txlen := rfl
@[simp] theorem setAddress_rxbuf : (setAddress off wid s).rxbuf = s.rxbuf := rfl
@[simp] theorem setAddress_rxlen : (setAddress off wid s).rxlen = s.rxlen := rfl
@[simp] theorem setAddress_phase : (setAddress off wid s).phase = s.phase := rfl
@[simp] theorem setAddress_pend : (setAddress off wid s).pend = s.pend := rfl
@[simp] theorem setAddress_resetAsserted : (setAddress off wid s).resetAsserted = s.resetAsserted := rfl
@[simp] theorem setAddress_inputs : (setAddress off wid s).inputs = s.inputs := rfl
@[simp] theorem setAddress_transportLog : (setAddress off wid s).transportLog = s.transportLog := rfl

end setAddressFields

section setErrorsFields

variable (w : BitVec 16)

@[simp] theorem setErrors_variant : (setErrors w s).variant = s.variant := rfl
@[simp] theorem setErrors_devid : (setErrors w s).devid = s.devid := rfl
@[simp] theorem setErrors_nch : (setErrors w s).nch = s.nch := rfl
@[simp] theorem setErrors_tables : (setErrors w s).tables = s.tables := rfl
@[simp] theorem setErrors_status : (setErrors w s).status = s.status := rfl
@[simp] theorem setErrors_rval : (setErrors w s).rval = w := rfl
@[simp] theorem setErrors_rb0 : (setErrors w s).rb0 = s.rb0 := rfl
@[simp] theorem setErrors_rb1 : (setErrors w s).rb1 = s.rb1 := rfl
@[simp] theorem setErrors_roff : (setErrors w s).roff = s.roff := rfl
@[simp] theorem setErrors_rwid : (setErrors w s).rwid = s.rwid := rfl
@[simp] theorem setErrors_hit : (setErrors w s).hit = s.hit := rfl
@[simp] theorem setErrors_moving : (setErrors w s).moving = s.moving := rfl
@[simp] theorem setErrors_errknown : (setErrors w s).errknown = w.extractLsb' 0 9 := rfl
@[simp] theorem setErrors_errunrec : (setErrors w s).errunrec = w.extractLsb' 9 7 := rfl
@[simp] theorem setErrors_txbuf : (setErrors w s).txbuf = s.txbuf := rfl
@[simp] theorem setErrors_txlen : (setErrors w s).txlen = s.txlen := rfl
@[simp] theorem setErrors_rxbuf : (setErrors w s).rxbuf = s.rxbuf := rfl
@[simp] theorem setErrors_rxlen : (setErrors w s).rxlen = s.rxlen := rfl
@[simp] theorem setErrors_phase : (setErrors w s).phase = s.phase := rfl
@[simp] theorem setErrors_pend : (setErrors w s).pend = s.pend := rfl
@[simp] theorem setErrors_resetAsserted : (setErrors w s).resetAsserted = s.resetAsserted := rfl
@[simp] theorem setErrors_inputs : (setErrors w s).inputs = s.inputs := rfl
@[simp] theorem setErrors_transportLog : (setErrors w s).transportLog = s.transportLog := rfl

end setErrorsFields

section setMovingFields

variable (v : BitVec 16) (m : Bool)

@[simp] theorem setMoving_variant : (setMoving v m s).variant = s.variant := rfl
@[simp] theorem setMoving_devid : (setMoving v m s).devid = s.devid := rfl
@[simp] theorem setMoving_nch : (setMoving v m s).nch = s.nch := rfl
@[simp] theorem setMoving_tables : (setMoving v m s).tables = s.tables := rfl
@[simp] theorem setMoving_status : (setMoving v m s).status = s.status := rfl
@[simp] theorem setMoving_rval : (setMoving v m s).rval = v := rfl
@[simp] theorem setMoving_rb0 : (setMoving v m s).rb0 = s.rb0 := rfl
@[simp] theorem setMoving_rb1 : (setMoving v m s).rb1 = s.rb1 := rfl
@[simp] theorem setMoving_roff : (setMoving v m s).roff = s.roff := rfl
@[simp] theorem setMoving_rwid : (setMoving v m s).rwid = s.rwid := rfl
@[simp] theorem setMoving_hit : (setMoving v m s).hit = s.hit := rfl
@[simp] theorem setMoving_moving : (setMoving v m s).moving = m := rfl
@[simp] theorem setMoving_errknown : (setMoving v m s).errknown = s.errknown := rfl
@[simp] theorem setMoving_errunrec : (setMoving v m s).errunrec = s.errunrec := rfl
@[simp] theorem setMoving_txbuf : (setMoving v m s).txbuf = s.txbuf := rfl
@[simp] theorem setMoving_txlen : (setMoving v m s).txlen = s.txlen := rfl
@[simp] theorem setMoving_rxbuf : (setMoving v m s).rxbuf = s.rxbuf := rfl
@[simp] theorem setMoving_rxlen : (setMoving v m s).rxlen = s.rxlen := rfl
@[simp] theorem setMoving_phase : (setMoving v m s).phase = s.phase := rfl
@[simp] theorem setMoving_pend : (setMoving v m s).pend = s.pend := rfl
@[simp] theorem setMoving_resetAsserted : (setMoving v m s).resetAsserted = s.resetAsserted := rfl
@[simp] theorem setMoving_inputs : (setMoving v m s).inputs = s.inputs := rfl
@[simp] theorem setMoving_transportLog : (setMoving v m s).transportLog = s.transportLog := rfl

end setMovingFields

section storeFrameFields

variable (f : List Byte)

@[simp] theorem storeFrame_variant : (storeFrame f s).variant = s.variant := rfl
@[simp] theorem storeFrame_devid : (storeFrame f s).devid = s.devid := rfl
@[simp] theorem storeFrame_nch : (storeFrame f s).nch = s.nch := rfl
@[simp] theorem storeFrame_tables : (storeFrame f s).tables = s.tables := rfl
@[simp] theorem storeFrame_status : (storeFrame f s).status = s.status := rfl
@[simp] theorem storeFrame_rval : (storeFrame f s).rval = s.rval := rfl
@[simp] theorem storeFrame_rb0 : (storeFrame f s).rb0 = s.rb0 := rfl
@[simp] theorem storeFrame_rb1 : (storeFrame f s).rb1 = s.rb1 := rfl
@[simp] theorem storeFrame_roff : (storeFrame f s).roff = s.roff := rfl
@[simp] theorem storeFrame_rwid : (storeFrame f s).rwid = s.rwid := rfl
@[simp] theorem storeFrame_hit : (storeFrame f s).hit = s.hit := rfl
@[simp] theorem storeFrame_moving : (storeFrame f s).moving = s.moving := rfl
@[simp] theorem storeFrame_errknown : (storeFrame f s).errknown = s.errknown := rfl
@[simp] theorem storeFrame_errunrec : (storeFrame f s).errunrec = s.errunrec := rfl
@[simp] theorem storeFrame_txbuf : (storeFrame f s).txbuf = memWriteSeq s.txbuf 0 f := rfl
@[simp] theorem storeFrame_txlen : (storeFrame f s).txlen = BitVec.ofNat 5 f.length := rfl
@[simp] theorem storeFrame_rxbuf : (storeFrame f s).rxbuf = s.rxbuf := rfl
@[simp] theorem storeFrame_rxlen : (storeFrame f s).rxlen = s.rxlen := rfl
@[simp] theorem storeFrame_phase : (storeFrame f s).phase = s.phase := rfl
@[simp] theorem storeFrame_pend : (storeFrame f s).pend = s.pend := rfl
@[simp] theorem storeFrame_resetAsserted : (storeFrame f s).resetAsserted = s.resetAsserted := rfl
@[simp] theorem storeFrame_inputs : (storeFrame f s).inputs = s.inputs := rfl
@[simp] theorem storeFrame_transportLog : (storeFrame f s).transportLog = s.transportLog := rfl

end storeFrameFields

section storeResponseFields

variable (bs : List Byte)

@[simp] theorem storeResponse_variant : (storeResponse bs s).variant = s.variant := rfl
@[simp] theorem storeResponse_devid : (storeResponse bs s).devid = s.devid := rfl
@[simp] theorem storeResponse_nch : (storeResponse bs s).nch = s.nch := rfl
@[simp] theorem storeResponse_tables : (storeResponse bs s).tables = s.tables := rfl
@[simp] theorem storeResponse_status : (storeResponse bs s).status = s.status := rfl
@[simp] theorem storeResponse_rval : (storeResponse bs s).rval = s.rval := rfl
@[simp] theorem storeResponse_rb0 : (storeResponse bs s).rb0 = s.rb0 := rfl
@[simp] theorem storeResponse_rb1 : (storeResponse bs s).rb1 = s.rb1 := rfl
@[simp] theorem storeResponse_roff : (storeResponse bs s).roff = s.roff := rfl
@[simp] theorem storeResponse_rwid : (storeResponse bs s).rwid = s.rwid := rfl
@[simp] theorem storeResponse_hit : (storeResponse bs s).hit = s.hit := rfl
@[simp] theorem storeResponse_moving : (storeResponse bs s).moving = s.moving := rfl
@[simp] theorem storeResponse_errknown : (storeResponse bs s).errknown = s.errknown := rfl
@[simp] theorem storeResponse_errunrec : (storeResponse bs s).errunrec = s.errunrec := rfl
@[simp] theorem storeResponse_txbuf : (storeResponse bs s).txbuf = s.txbuf := rfl
@[simp] theorem storeResponse_txlen : (storeResponse bs s).txlen = s.txlen := rfl
@[simp] theorem storeResponse_rxbuf : (storeResponse bs s).rxbuf = memWriteSeq s.rxbuf 0 bs := rfl
@[simp] theorem storeResponse_rxlen : (storeResponse bs s).rxlen = BitVec.ofNat 2 bs.length := rfl
@[simp] theorem storeResponse_phase : (storeResponse bs s).phase = s.phase := rfl
@[simp] theorem storeResponse_pend : (storeResponse bs s).pend = s.pend := rfl
@[simp] theorem storeResponse_resetAsserted : (storeResponse bs s).resetAsserted = s.resetAsserted := rfl
@[simp] theorem storeResponse_inputs : (storeResponse bs s).inputs = s.inputs := rfl
@[simp] theorem storeResponse_transportLog : (storeResponse bs s).transportLog = s.transportLog := rfl

end storeResponseFields

section txSendFields

variable (f : List Byte)

@[simp] theorem txSend_variant : (txSend f s).variant = s.variant := rfl
@[simp] theorem txSend_devid : (txSend f s).devid = s.devid := rfl
@[simp] theorem txSend_nch : (txSend f s).nch = s.nch := rfl
@[simp] theorem txSend_tables : (txSend f s).tables = s.tables := rfl
@[simp] theorem txSend_status : (txSend f s).status = s.status := rfl
@[simp] theorem txSend_rval : (txSend f s).rval = s.rval := rfl
@[simp] theorem txSend_rb0 : (txSend f s).rb0 = s.rb0 := rfl
@[simp] theorem txSend_rb1 : (txSend f s).rb1 = s.rb1 := rfl
@[simp] theorem txSend_roff : (txSend f s).roff = s.roff := rfl
@[simp] theorem txSend_rwid : (txSend f s).rwid = s.rwid := rfl
@[simp] theorem txSend_hit : (txSend f s).hit = s.hit := rfl
@[simp] theorem txSend_moving : (txSend f s).moving = s.moving := rfl
@[simp] theorem txSend_errknown : (txSend f s).errknown = s.errknown := rfl
@[simp] theorem txSend_errunrec : (txSend f s).errunrec = s.errunrec := rfl
@[simp] theorem txSend_txbuf : (txSend f s).txbuf = s.txbuf := rfl
@[simp] theorem txSend_txlen : (txSend f s).txlen = s.txlen := rfl
@[simp] theorem txSend_rxbuf : (txSend f s).rxbuf = s.rxbuf := rfl
@[simp] theorem txSend_rxlen : (txSend f s).rxlen = s.rxlen := rfl
@[simp] theorem txSend_phase : (txSend f s).phase = s.phase := rfl
@[simp] theorem txSend_pend : (txSend f s).pend = s.pend := rfl
@[simp] theorem txSend_resetAsserted : (txSend f s).resetAsserted = s.resetAsserted := rfl
@[simp] theorem txSend_inputs : (txSend f s).inputs = s.inputs := rfl
@[simp] theorem txSend_transportLog : (txSend f s).transportLog = s.transportLog ++ [.txSend f] := rfl

end txSendFields

section rxRequestFields

variable (n : Nat)

@[simp] theorem rxRequest_variant : (rxRequest n s).variant = s.variant := rfl
@[simp] theorem rxRequest_devid : (rxRequest n s).devid = s.devid := rfl
@[simp] theorem rxRequest_nch : (rxRequest n s).nch = s.nch := rfl
@[simp] theorem rxRequest_tables : (rxRequest n s).tables = s.tables := rfl
@[simp] theorem rxRequest_status : (rxRequest n s).status = s.status := rfl
@[simp] theorem rxRequest_rval : (rxRequest n s).rval = s.rval := rfl
@[simp] theorem rxRequest_rb0 : (rxRequest n s).rb0 = s.rb0 := rfl
@[simp] theorem rxRequest_rb1 : (rxRequest n s).rb1 = s.rb1 := rfl
@[simp] theorem rxRequest_roff : (rxRequest n s).roff = s.roff := rfl
@[simp] theorem rxRequest_rwid : (rxRequest n s).rwid = s.rwid := rfl
@[simp] theorem rxRequest_hit : (rxRequest n s).hit = s.hit := rfl
@[simp] theorem rxRequest_moving : (rxRequest n s).moving = s.moving := rfl
@[simp] theorem rxRequest_errknown : (rxRequest n s).errknown = s.errknown := rfl
@[simp] theorem rxRequest_errunrec : (rxRequest n s).errunrec = s.errunrec := rfl
@[simp] theorem rxRequest_txbuf : (rxRequest n s).txbuf = s.txbuf := rfl
@[simp] theorem rxRequest_txlen : (rxRequest n s).txlen = s.txlen := rfl
@[simp] theorem rxRequest_rxbuf : (rxRequest n s).rxbuf = s.rxbuf := rfl
@[simp] theorem rxRequest_rxlen : (rxRequest n s).rxlen = s.rxlen := rfl
@[simp] theorem rxRequest_phase : (rxRequest n s).phase = s.phase := rfl
@[simp] theorem rxRequest_pend : (rxRequest n s).pend = s.pend := rfl
@[simp] theorem rxRequest_resetAsserted : (rxRequest n s).resetAsserted = s.resetAsserted := rfl
@[simp] theorem rxRequest_inputs : (rxRequest n s).inputs = s.inputs := rfl
@[simp] theorem rxRequest_transportLog : (rxRequest n s).transportLog = s.transportLog ++ [.rxRequest n s.tables.timeout] := rfl

end rxRequestFields

section startTransactionFields

variable (k : PendKind) (n : BitVec 2)

@[simp] theorem startTransaction_variant : (startTransaction k n s).variant = s.variant := rfl
@[simp] theorem startTransaction_devid : (startTransaction k n s).devid = s.devid := rfl
@[simp] theorem startTransaction_nch : (startTransaction k n s).nch = s.nch := rfl
@[simp] theorem startTransaction_tables : (startTransaction k n s).tables = s.tables := rfl
@[simp] theorem startTransaction_status : (startTransaction k n s).status = s.status := rfl
@[simp] theorem startTransaction_rval : (startTransaction k n s).rval = s.rval := rfl
@[simp] theorem startTransaction_rb0 : (startTransaction k n s).rb0 = s.rb0 := rfl
@[simp] theorem startTransaction_rb1 : (startTransaction k n s).rb1 = s.rb1 := rfl
@[simp] theorem startTransaction_roff : (startTransaction k n s).roff = s.roff := rfl
@[simp] theorem startTransaction_rwid : (startTransaction k n s).rwid = s.rwid := rfl
@[simp] theorem startTransaction_hit : (startTransaction k n s).hit = s.hit := rfl
@[simp] theorem startTransaction_moving : (startTransaction k n s).moving = s.moving := rfl
@[simp] theorem startTransaction_errknown : (startTransaction k n s).errknown = s.errknown := rfl
@[simp] theorem startTransaction_errunrec : (startTransaction k n s).errunrec = s.errunrec := rfl
@[simp] theorem startTransaction_txbuf : (startTransaction k n s).txbuf = s.txbuf := rfl
@[simp] theorem startTransaction_txlen : (startTransaction k n s).txlen = s.txlen := rfl
@[simp] theorem startTransaction_rxbuf : (startTransaction k n s).rxbuf = s.rxbuf := rfl
@[simp] theorem startTransaction_rxlen : (startTransaction k n s).rxlen = s.rxlen := rfl
@[simp] theorem startTransaction_phase : (startTransaction k n s).phase = .tx := rfl
@[simp] theorem startTransaction_pend : (startTransaction k n s).pend = ⟨k, n⟩ := rfl
@[simp] theorem startTransaction_resetAsserted : (startTransaction k n s).resetAsserted = s.resetAsserted := rfl
@[simp] theorem startTransaction_inputs : (startTransaction k n s).inputs = s.inputs := rfl
@[simp] theorem startTransaction_transportLog : (startTransaction k n s).transportLog = s.transportLog := rfl

end startTransactionFields

section assertResetFields

@[simp] theorem assertReset_variant : (assertReset s).variant = s.variant := rfl
@[simp] theorem assertReset_devid : (assertReset s).devid = s.devid := rfl
@[simp] theorem assertReset_nch : (assertReset s).nch = s.nch := rfl
@[simp] theorem assertReset_tables : (assertReset s).tables = s.tables := rfl
@[simp] theorem assertReset_status : (assertReset s).status = s.status := rfl
@[simp] theorem assertReset_rval : (assertReset s).rval = s.rval := rfl
@[simp] theorem assertReset_rb0 : (assertReset s).rb0 = s.rb0 := rfl
@[simp] theorem assertReset_rb1 : (assertReset s).rb1 = s.rb1 := rfl
@[simp] theorem assertReset_roff : (assertReset s).roff = s.roff := rfl
@[simp] theorem assertReset_rwid : (assertReset s).rwid = s.rwid := rfl
@[simp] theorem assertReset_hit : (assertReset s).hit = s.hit := rfl
@[simp] theorem assertReset_moving : (assertReset s).moving = s.moving := rfl
@[simp] theorem assertReset_errknown : (assertReset s).errknown = s.errknown := rfl
@[simp] theorem assertReset_errunrec : (assertReset s).errunrec = s.errunrec := rfl
@[simp] theorem assertReset_txbuf : (assertReset s).txbuf = s.txbuf := rfl
@[simp] theorem assertReset_txlen : (assertReset s).txlen = s.txlen := rfl
@[simp] theorem assertReset_rxbuf : (assertReset s).rxbuf = s.rxbuf := rfl
@[simp] theorem assertReset_rxlen : (assertReset s).rxlen = s.rxlen := rfl
@[simp] theorem assertReset_phase : (assertReset s).phase = s.phase := rfl
@[simp] theorem assertReset_pend : (assertReset s).pend = s.pend := rfl
@[simp] theorem assertReset_resetAsserted : (assertReset s).resetAsserted = true := rfl
@[simp] theorem assertReset_inputs : (assertReset s).inputs = s.inputs := rfl
@[simp] theorem assertReset_transportLog : (assertReset s).transportLog = s.transportLog := rfl

end assertResetFields

section presentPacketFields

variable (p : Packet)

@[simp] theorem presentPacket_variant : (presentPacket p s).variant = s.variant := rfl
@[simp] theorem presentPacket_devid : (presentPacket p s).devid = s.devid := rfl
@[simp] theorem presentPacket_nch : (presentPacket p s).nch = s.nch := rfl
@[simp] theorem presentPacket_tables : (presentPacket p s).tables = s.tables := rfl
@[simp] theorem presentPacket_status : (presentPacket p s).status = s.status := rfl
@[simp] theorem presentPacket_rval : (presentPacket p s).rval = s.rval := rfl
@[simp] theorem presentPacket_rb0 : (presentPacket p s).rb0 = s.rb0 := rfl
@[simp] theorem presentPacket_rb1 : (presentPacket p s).rb1 = s.rb1 := rfl
@[simp] theorem presentPacket_roff : (presentPacket p s).roff = s.roff := rfl
@[simp] theorem presentPacket_rwid : (presentPacket p s).rwid = s.rwid := rfl
@[simp] theorem presentPacket_hit : (presentPacket p s).hit = s.hit := rfl
@[simp] theorem presentPacket_moving : (presentPacket p s).moving = s.moving := rfl
@[simp] theorem presentPacket_errknown : (presentPacket p s).errknown = s.errknown := rfl
@[simp] theorem presentPacket_errunrec : (presentPacket p s).errunrec = s.errunrec := rfl
@[simp] theorem presentPacket_txbuf : (presentPacket p s).txbuf = s.txbuf := rfl
@[simp] theorem presentPacket_txlen : (presentPacket p s).txlen = s.txlen := rfl
@[simp] theorem presentPacket_rxbuf : (presentPacket p s).rxbuf = s.rxbuf := rfl
@[simp] theorem presentPacket_rxlen : (presentPacket p s).rxlen = s.rxlen := rfl
@[simp] theorem presentPacket_phase : (presentPacket p s).phase = .idle := rfl
@[simp] theorem presentPacket_pend : (presentPacket p s).pend = s.pend := rfl
@[simp] theorem presentPacket_resetAsserted : (presentPacket p s).resetAsserted = false := rfl
@[simp] theorem presentPacket_inputs : (presentPacket p s).inputs = .command p :: s.inputs := rfl
@[simp] theorem presentPacket_transportLog : (presentPacket p s).transportLog = s.transportLog := rfl

end presentPacketFields

section setNameFields

variable (i : Nat)

@[simp] theorem setName_some_variant : (setName (some i) s).variant = s.variant := rfl
@[simp] theorem setName_some_devid : (setName (some i) s).devid = s.devid := rfl
@[simp] theorem setName_some_nch : (setName (some i) s).nch = s.nch := rfl
@[simp] theorem setName_some_tables : (setName (some i) s).tables = s.tables := rfl
@[simp] theorem setName_some_status : (setName (some i) s).status = s.status := rfl
@[simp] theorem setName_some_rval : (setName (some i) s).rval = s.rval := rfl
@[simp] theorem setName_some_rb0 : (setName (some i) s).rb0 = BitVec.ofNat 8 i := rfl
@[simp] theorem setName_some_rb1 : (setName (some i) s).rb1 = s.rb1 := rfl
@[simp] theorem setName_some_roff : (setName (some i) s).roff = s.roff := rfl
@[simp] theorem setName_some_rwid : (setName (some i) s).rwid = s.rwid := rfl
@[simp] theorem setName_some_hit : (setName (some i) s).hit = true := rfl
@[simp] theorem setName_some_moving : (setName (some i) s).moving = s.moving := rfl
@[simp] theorem setName_some_errknown : (setName (some i) s).errknown = s.errknown := rfl
@[simp] theorem setName_some_errunrec : (setName (some i) s).errunrec = s.errunrec := rfl
@[simp] theorem setName_some_txbuf : (setName (some i) s).txbuf = s.txbuf := rfl
@[simp] theorem setName_some_txlen : (setName (some i) s).txlen = s.txlen := rfl
@[simp] theorem setName_some_rxbuf : (setName (some i) s).rxbuf = s.rxbuf := rfl
@[simp] theorem setName_some_rxlen : (setName (some i) s).rxlen = s.rxlen := rfl
@[simp] theorem setName_some_phase : (setName (some i) s).phase = s.phase := rfl
@[simp] theorem setName_some_pend : (setName (some i) s).pend = s.pend := rfl
@[simp] theorem setName_some_resetAsserted : (setName (some i) s).resetAsserted = s.resetAsserted := rfl
@[simp] theorem setName_some_inputs : (setName (some i) s).inputs = s.inputs := rfl
@[simp] theorem setName_some_transportLog : (setName (some i) s).transportLog = s.transportLog := rfl

@[simp] theorem setName_none_variant : (setName none s).variant = s.variant := rfl
@[simp] theorem setName_none_devid : (setName none s).devid = s.devid := rfl
@[simp] theorem setName_none_nch : (setName none s).nch = s.nch := rfl
@[simp] theorem setName_none_tables : (setName none s).tables = s.tables := rfl
@[simp] theorem setName_none_status : (setName none s).status = s.status := rfl
@[simp] theorem setName_none_rval : (setName none s).rval = s.rval := rfl
@[simp] theorem setName_none_rb0 : (setName none s).rb0 = s.rb0 := rfl
@[simp] theorem setName_none_rb1 : (setName none s).rb1 = s.rb1 := rfl
@[simp] theorem setName_none_roff : (setName none s).roff = s.roff := rfl
@[simp] theorem setName_none_rwid : (setName none s).rwid = s.rwid := rfl
@[simp] theorem setName_none_hit : (setName none s).hit = false := rfl
@[simp] theorem setName_none_moving : (setName none s).moving = s.moving := rfl
@[simp] theorem setName_none_errknown : (setName none s).errknown = s.errknown := rfl
@[simp] theorem setName_none_errunrec : (setName none s).errunrec = s.errunrec := rfl
@[simp] theorem setName_none_txbuf : (setName none s).txbuf = s.txbuf := rfl
@[simp] theorem setName_none_txlen : (setName none s).txlen = s.txlen := rfl
@[simp] theorem setName_none_rxbuf : (setName none s).rxbuf = s.rxbuf := rfl
@[simp] theorem setName_none_rxlen : (setName none s).rxlen = s.rxlen := rfl
@[simp] theorem setName_none_phase : (setName none s).phase = s.phase := rfl
@[simp] theorem setName_none_pend : (setName none s).pend = s.pend := rfl
@[simp] theorem setName_none_resetAsserted : (setName none s).resetAsserted = s.resetAsserted := rfl
@[simp] theorem setName_none_inputs : (setName none s).inputs = s.inputs := rfl
@[simp] theorem setName_none_transportLog : (setName none s).transportLog = s.transportLog := rfl

end setNameFields

section releaseResetFields

variable (st : Straps)

@[simp] theorem releaseReset_variant : (releaseReset st s).variant = st.variant := rfl
@[simp] theorem releaseReset_devid : (releaseReset st s).devid = st.devid := rfl
@[simp] theorem releaseReset_nch : (releaseReset st s).nch = st.nch := rfl
@[simp] theorem releaseReset_tables : (releaseReset st s).tables = s.tables := rfl
@[simp] theorem releaseReset_status : (releaseReset st s).status = 0 := rfl
@[simp] theorem releaseReset_rval : (releaseReset st s).rval = 0 := rfl
@[simp] theorem releaseReset_rb0 : (releaseReset st s).rb0 = 0 := rfl
@[simp] theorem releaseReset_rb1 : (releaseReset st s).rb1 = 0 := rfl
@[simp] theorem releaseReset_roff : (releaseReset st s).roff = 0 := rfl
@[simp] theorem releaseReset_rwid : (releaseReset st s).rwid = 0 := rfl
@[simp] theorem releaseReset_hit : (releaseReset st s).hit = false := rfl
@[simp] theorem releaseReset_moving : (releaseReset st s).moving = false := rfl
@[simp] theorem releaseReset_errknown : (releaseReset st s).errknown = 0 := rfl
@[simp] theorem releaseReset_errunrec : (releaseReset st s).errunrec = 0 := rfl
@[simp] theorem releaseReset_txbuf : (releaseReset st s).txbuf = [] := rfl
@[simp] theorem releaseReset_txlen : (releaseReset st s).txlen = 0 := rfl
@[simp] theorem releaseReset_rxbuf : (releaseReset st s).rxbuf = [] := rfl
@[simp] theorem releaseReset_rxlen : (releaseReset st s).rxlen = 0 := rfl
@[simp] theorem releaseReset_phase : (releaseReset st s).phase = .idle := rfl
@[simp] theorem releaseReset_pend : (releaseReset st s).pend = ⟨.none, 0⟩ := rfl
@[simp] theorem releaseReset_resetAsserted : (releaseReset st s).resetAsserted = false := rfl
@[simp] theorem releaseReset_inputs : (releaseReset st s).inputs = s.inputs := rfl
@[simp] theorem releaseReset_transportLog : (releaseReset st s).transportLog = s.transportLog := rfl

/-- Release leaves what `State.resetWith` says, beside what stands outside the block. -/
theorem releaseReset_eq_resetWith :
    releaseReset st s = { State.resetWith st s.tables with inputs := s.inputs, transportLog := s.transportLog } := rfl

end releaseResetFields

end Sys2Proof.Machine
end

