-- ==== Sys2Proof/Laws/Ops.lean ====
section
/-! SUPPORT. For each shared operation, once, everything it can do. -/

namespace Sys2Proof.Machine

open Sys2Proof.Config

/-! ### Numbers -/

theorem zext16_of_lt {v : Nat} (h : v < 65536) : zext16 v = BitVec.ofNat 16 v := if_pos h

@[simp] theorem zext16_toNat {v : Nat} (h : v < 65536) : (zext16 v).toNat = v := by
  rw [zext16_of_lt h, BitVec.toNat_ofNat, Nat.mod_eq_of_lt (by simpa using h)]

theorem representable_iff {v : Int} : representable v = true ↔ 0 ≤ v ∧ v ≤ 16383 := by
  rw [representable, Bool.and_eq_true, decide_eq_true_iff, decide_eq_true_iff]
  exact Iff.rfl

theorem valueCheck_eq_none {a : Arg16} : valueCheck a = none ↔ 0 ≤ operandValue a ∧ operandValue a ≤ 16383 := by
  rw [← representable_iff, valueCheck]
  split <;> simp_all

theorem valueCheck_cases (a : Arg16) : valueCheck a = none ∨ valueCheck a = some .valueOutOfRange := by
  rw [valueCheck]
  split <;> simp

theorem channelCheck_eq_none {ch nch : Byte} : channelCheck ch nch = none ↔ ch.toNat < nch.toNat := by
  rw [channelCheck]
  split <;> simp_all

theorem channelCheck_cases (ch nch : Byte) :
    channelCheck ch nch = none ∨ channelCheck ch nch = some .channelOutOfRange := by
  rw [channelCheck]
  split <;> simp

theorem errorCode_pos_le (e : ErrorKind) : 1 ≤ (errorCode e).toNat ∧ (errorCode e).toNat ≤ 6 := by
  cases e <;> decide

/-! ### Frames -/

theorem frame_length (v : Variant) (devid opc : Byte) (ops : List Byte) :
    (frame v devid opc ops).length = (match v with | .compact => 1 | .addressed => 3) + ops.length := by
  cases v <;> simp [frame, framePrefix] <;> omega

theorem frame_length_le {v : Variant} {devid opc : Byte} {ops : List Byte} (h : ops.length ≤ maxOps) :
    (frame v devid opc ops).length ≤ txCap := by
  have h' : ops.length ≤ 15 := h
  show _ ≤ 18
  rw [frame_length]
  cases v <;> simp <;> omega

theorem channelValueOps_length (ch : Byte) (a : Arg16) : (channelValueOps ch a).length = 3 := rfl

/-- What storing a frame leaves in the buffer and in `TXLEN`. -/
theorem storeFrame_spec {s : State} {f : List Byte} (hs : Memory.wf txCap s.txbuf) (hf : f.length ≤ txCap) :
    Memory.wf txCap (storeFrame f s).txbuf ∧ (storeFrame f s).txlen.toNat = f.length ∧
      (∀ i, memRead (storeFrame f s).txbuf i = f.getD i (memRead s.txbuf i)) ∧
      memReadSeq (storeFrame f s).txbuf (storeFrame f s).txlen.toNat = f := by
  have hlen : (storeFrame f s).txlen.toNat = f.length := by
    have : f.length ≤ 18 := hf
    rw [storeFrame_txlen, BitVec.toNat_ofNat, Nat.mod_eq_of_lt (by omega)]
  refine ⟨memWriteSeq_wf hs (by omega), hlen, fun i => ?_, ?_⟩
  · rw [storeFrame_txbuf, memRead_memWriteSeq hs (by omega)]
    simp
  · rw [hlen]
    exact memReadSeq_memWriteSeq hs hf

/-- What storing a response of at most `MAXRESP` bytes leaves. -/
theorem storeResponse_spec {s : State} {bs : List Byte} (hs : Memory.wf maxResp s.rxbuf) (hb : bs.length ≤ maxResp) :
    Memory.wf maxResp (storeResponse bs s).rxbuf ∧ (storeResponse bs s).rxlen.toNat = bs.length ∧
      ∀ i, memRead (storeResponse bs s).rxbuf i = bs.getD i (memRead s.rxbuf i) := by
  have hlen : (storeResponse bs s).rxlen.toNat = bs.length := by
    have : bs.length ≤ 3 := hb
    rw [storeResponse_rxlen, BitVec.toNat_ofNat, Nat.mod_eq_of_lt (by omega)]
  refine ⟨memWriteSeq_wf hs (by omega), hlen, fun i => ?_⟩
  rw [storeResponse_rxbuf, memRead_memWriteSeq hs (by omega)]
  simp

/-! ### Checks, operands and the issue step -/

@[simp] theorem guarded_none (effect : State → State) (s : State) : guarded none effect s = effect s := rfl

@[simp] theorem guarded_some (e : ErrorKind) (effect : State → State) (s : State) :
    guarded (some e) effect s = raiseError e s := rfl

/-- A guarded effect raises the error of its check or happens. -/
theorem guarded_cases (check : Option ErrorKind) (effect : State → State) (s : State) :
    (∃ e, check = some e ∧ guarded check effect s = raiseError e s) ∨
      (check = none ∧ guarded check effect s = effect s) := by
  cases check with
  | none => exact .inr ⟨rfl, rfl⟩
  | some e => exact .inl ⟨e, rfl, rfl⟩

theorem withOperands_of_fit {ops : List Byte} (h : ops.length ≤ maxOps) (effect : State → State) (s : State) :
    withOperands ops effect s = .next (effect s) := if_pos h

theorem withOperands_of_overflow {ops : List Byte} (h : ¬ ops.length ≤ maxOps) (effect : State → State) (s : State) :
    withOperands ops effect s = .fault .operandOverflow := if_neg h

theorem withOperands_next {ops : List Byte} {effect : State → State} {s t : State}
    (h : withOperands ops effect s = .next t) : ops.length ≤ maxOps ∧ t = effect s := by
  by_cases hl : ops.length ≤ maxOps
  · rw [withOperands_of_fit hl] at h
    exact ⟨hl, (Host.Outcome.next.inj h).symm⟩
  · rw [withOperands_of_overflow hl] at h
    exact absurd h (by simp)

/-- Everything an issue step that answers a next state can do (rule R147). -/
theorem issue_next {check : Option ErrorKind} {opc : Byte} {ops : List Byte} {n : BitVec 2} {kind : PendKind} {s t : State}
    (h : issue check opc ops n kind s = .next t) :
    ops.length ≤ maxOps ∧
      ((∃ e, check = some e ∧ t = raiseError e s) ∨ (check = none ∧ t = issued opc ops n kind s)) := by
  obtain ⟨hl, rfl⟩ := withOperands_next h
  exact ⟨hl, guarded_cases check _ s⟩

theorem issue_of_fit {ops : List Byte} (h : ops.length ≤ maxOps) (check : Option ErrorKind) (opc : Byte) (n : BitVec 2)
    (kind : PendKind) (s : State) :
    issue check opc ops n kind s = .next (guarded check (issued opc ops n kind) s) := withOperands_of_fit h _ _

@[simp] theorem issued_phase (opc : Byte) (ops : List Byte) (n : BitVec 2) (kind : PendKind) (s : State) :
    (issued opc ops n kind s).phase = .tx := rfl

@[simp] theorem issued_pend (opc : Byte) (ops : List Byte) (n : BitVec 2) (kind : PendKind) (s : State) :
    (issued opc ops n kind s).pend = ⟨kind, n⟩ := rfl

@[simp] theorem issued_transportLog (opc : Byte) (ops : List Byte) (n : BitVec 2) (kind : PendKind) (s : State) :
    (issued opc ops n kind s).transportLog = s.transportLog ++ [.txSend (frameOf opc ops s)] := rfl

/-- Everything an issued transaction changes, in one record. -/
theorem issued_eq (opc : Byte) (ops : List Byte) (n : BitVec 2) (kind : PendKind) (s : State) :
    issued opc ops n kind s =
      { s with txbuf := (storeFrame (frameOf opc ops s) s).txbuf, txlen := (storeFrame (frameOf opc ops s) s).txlen,
               pend := ⟨kind, n⟩, phase := .tx,
               transportLog := s.transportLog ++ [.txSend (frameOf opc ops s)] } := rfl

/-! ### The registry's table look-up -/

theorem withParam_of_some {rows : List ParamRow} {id : Byte} {r : ParamRow} (h : paramOf rows id = some r)
    (effect : ParamRow → State → State) (s : State) : withParam rows id effect s = effect r s := by
  simp [withParam, h]

theorem withParam_of_none {rows : List ParamRow} {id : Byte} (h : paramOf rows id = none)
    (effect : ParamRow → State → State) (s : State) : withParam rows id effect s = raiseError .unknownParameter s := by
  simp [withParam, h]

theorem paramOf_eq_none {rows : List ParamRow} {id : Byte} : paramOf rows id = none ↔ ∀ r ∈ rows, r.id ≠ id := by
  simp [paramOf, List.find?_eq_none]

/-- In a table whose identifiers are different, a row is found under its identifier. -/
theorem paramOf_of_mem {rows : List ParamRow} (hn : (rows.map (·.id)).Nodup) {r : ParamRow} (hr : r ∈ rows) :
    paramOf rows r.id = some r := by
  induction rows with
  | nil => simp at hr
  | cons x rest ih =>
    rw [List.map_cons, List.nodup_cons] at hn
    rcases List.mem_cons.mp hr with rfl | hr
    · simp [paramOf]
    · have hx : x.id ≠ r.id := fun e => hn.1 (e ▸ List.mem_map_of_mem hr)
      have : (x.id == r.id) = false := by simpa using hx
      rw [paramOf, List.find?_cons, this]
      exact ih hn.2 hr

/-! ### Decoded responses -/

/-- A decoder writes result registers only: it never touches the sequencer, the buffers or the status. -/
theorem decodeResponse_frame (kind : PendKind) (s : State) :
    decodeResponse kind s =
      { s with rval := (decodeResponse kind s).rval, moving := (decodeResponse kind s).moving,
               errknown := (decodeResponse kind s).errknown, errunrec := (decodeResponse kind s).errunrec } := by
  cases kind <;> rfl

/-! ### The two answers of the transport -/

/-- Everything the transmit-answer step can do (rule R148). -/
theorem txAnswerStep_cases (a : TxAnswer) (s : State) :
    (a = .ioerr ∧ txAnswerStep a s = raiseError .ioError s) ∨
      (a = .ok ∧ s.pend.n = 0 ∧ txAnswerStep a s = endTransaction { s with rxlen := 0 }) ∨
      (a = .ok ∧ s.pend.n ≠ 0 ∧ txAnswerStep a s = rxRequest s.pend.n.toNat { s with phase := .rx }) := by
  cases a with
  | ioerr => exact .inl ⟨rfl, rfl⟩
  | ok =>
    by_cases h : s.pend.n = 0
    · exact .inr (.inl ⟨rfl, h, if_pos h⟩)
    · exact .inr (.inr ⟨rfl, h, if_neg h⟩)

/-- Everything the receive-answer step can do (rule R149). -/
theorem rxAnswerStep_cases (a : RxAnswer) (s : State) :
    (∃ e, rxAnswerStep a s = raiseError e s) ∨
      ∃ bs, a = .ok bs ∧ bs.length = s.pend.n.toNat ∧
        rxAnswerStep a s = endTransaction (decodeResponse s.pend.kind (storeResponse bs s)) := by
  cases a with
  | ioerr => exact .inl ⟨.ioError, rfl⟩
  | timeout => exact .inl ⟨.responseTimeout, rfl⟩
  | ok bs =>
    by_cases h : bs.length = s.pend.n.toNat
    · exact .inr ⟨bs, rfl, h, by simp [rxAnswerStep, h]⟩
    · exact .inl ⟨.protocolError, by simp [rxAnswerStep, h]⟩

/-! ### Which input is taken -/

/-- No input is taken exactly when none is enabled. -/
theorem takeInput_eq_none {s : State} {l : List Input} : takeInput s l = none ↔ ∀ x ∈ l, inputEnabled s x = false := by
  induction l with
  | nil => simp [takeInput]
  | cons x rest ih =>
    rw [takeInput]
    by_cases hx : inputEnabled s x = true
    · simp [hx]
    · have hf : inputEnabled s x = false := by simpa using hx
      cases h : takeInput s rest with
      | none => simpa [hf] using ih.mp h
      | some q =>
        have : ¬ ∀ y ∈ rest, inputEnabled s y = false := fun hall => by simp [ih.mpr hall] at h
        simpa [hf] using this

/-- The input taken is the first enabled one, and the others keep their order. -/
theorem takeInput_eq_some {s : State} {l : List Input} {x : Input} {waiting : List Input}
    (h : takeInput s l = some (x, waiting)) :
    ∃ before after, l = before ++ x :: after ∧ waiting = before ++ after ∧ inputEnabled s x = true ∧
      ∀ y ∈ before, inputEnabled s y = false := by
  induction l generalizing waiting with
  | nil => simp [takeInput] at h
  | cons z rest ih =>
    rw [takeInput] at h
    by_cases hz : inputEnabled s z = true
    · simp only [hz, if_true, Option.some.injEq, Prod.mk.injEq] at h
      obtain ⟨rfl, rfl⟩ := h
      exact ⟨[], rest, rfl, rfl, hz, by simp⟩
    · have hf : inputEnabled s z = false := by simpa using hz
      cases hr : takeInput s rest with
      | none => simp [hf, hr] at h
      | some q =>
        obtain ⟨y, others⟩ := q
        simp only [hf, hr, Bool.false_eq_true, if_false, Option.some.injEq, Prod.mk.injEq] at h
        obtain ⟨rfl, rfl⟩ := h
        obtain ⟨before, after, rfl, rfl, hy, hb⟩ := ih hr
        refine ⟨z :: before, after, rfl, rfl, hy, fun w hw => ?_⟩
        rcases List.mem_cons.mp hw with rfl | hw
        · exact hf
        · exact hb w hw

/-- An enabled input behind waiting ones is taken past them. -/
theorem takeInput_append {s : State} {before : List Input} (hb : ∀ y ∈ before, inputEnabled s y = false) {x : Input}
    (hx : inputEnabled s x = true) (after : List Input) :
    takeInput s (before ++ x :: after) = some (x, before ++ after) := by
  induction before with
  | nil => simp [takeInput, hx]
  | cons z rest ih =>
    have hz := hb z List.mem_cons_self
    have := ih fun y hy => hb y (List.mem_cons_of_mem _ hy)
    simp [takeInput, hz, this]

theorem inputEnabled_command {s : State} {p : Packet} :
    inputEnabled s (.command p) = true ↔ s.phase = .idle ∧ s.resetAsserted = false := by
  simp [inputEnabled, ready]

theorem inputEnabled_txAnswer {s : State} {a : TxAnswer} :
    inputEnabled s (.txAnswer a) = true ↔ s.phase = .tx ∧ s.resetAsserted = false := by
  simp [inputEnabled]

theorem inputEnabled_rxAnswer {s : State} {a : RxAnswer} :
    inputEnabled s (.rxAnswer a) = true ↔ s.phase = .rx ∧ s.resetAsserted = false := by
  simp [inputEnabled]

/-! ### The step -/

theorem step_of_none {s : State} (h : takeInput s s.inputs = none) : step s = .next s := by simp [step, h]

theorem step_of_some {s : State} {x : Input} {waiting : List Input} (h : takeInput s s.inputs = some (x, waiting)) :
    step s = stepInput x { s with inputs := waiting } := by simp [step, h]

/-- Everything a step that answers a next state can do. -/
theorem step_next {s t : State} (h : step s = .next t) :
    (takeInput s s.inputs = none ∧ t = s) ∨
      ∃ x waiting, takeInput s s.inputs = some (x, waiting) ∧
        ((∃ p i, x = .command p ∧ decode p = .ok i ∧ exec i { s with inputs := waiting } = .next t) ∨
          (∃ a, x = .txAnswer a ∧ t = txAnswerStep a { s with inputs := waiting }) ∨
          (∃ a, x = .rxAnswer a ∧ t = rxAnswerStep a { s with inputs := waiting }) ∨
          (x = .resetAssert ∧ t = assertReset { s with inputs := waiting }) ∨
          ∃ st, x = .resetRelease st ∧ t = releaseReset st { s with inputs := waiting }) := by
  cases ht : takeInput s s.inputs with
  | none =>
    rw [step_of_none ht] at h
    exact .inl ⟨rfl, (Host.Outcome.next.inj h).symm⟩
  | some q =>
    obtain ⟨x, waiting⟩ := q
    rw [step_of_some ht] at h
    refine .inr ⟨x, waiting, rfl, ?_⟩
    cases x with
    | command p =>
      cases hd : decode p with
      | ok i => exact .inl ⟨p, i, rfl, hd, by simpa [stepInput, hd] using h⟩
      | error e => simp [stepInput, hd] at h
    | txAnswer a => exact .inr (.inl ⟨a, rfl, (Host.Outcome.next.inj h).symm⟩)
    | rxAnswer a => exact .inr (.inr (.inl ⟨a, rfl, (Host.Outcome.next.inj h).symm⟩))
    | resetAssert => exact .inr (.inr (.inr (.inl ⟨rfl, (Host.Outcome.next.inj h).symm⟩)))
    | resetRelease st => exact .inr (.inr (.inr (.inr ⟨st, rfl, (Host.Outcome.next.inj h).symm⟩)))

end Sys2Proof.Machine
end

