-- ==== Sys2Proof/Laws/PerInstr.lean ====
section
/-! SUPPORT. The family PacketForm: the packet that the encoder gives an operation carries the operation's select code and
exactly the operand bytes its head word counts. -/

namespace Sys2Proof.Laws.PacketForm

open Sys2Proof.Machine

/-- The select code of an operation (rule R72); a pseudo-operation has XFER's (rule R76). -/
def selectCode : Instr → BitVec 4
  | .pack16 _ => 0x0
  | .unpack16 _ _ => 0x1
  | .addrDev _ => 0x2
  | .addrServo _ _ => 0x3
  | .encode _ _ => 0x4
  | .codeOf _ => 0x5
  | .nameOf _ => 0x6
  | .decErrors _ _ => 0x7
  | .xfer _ _ _ => 0x8
  | .setTarget _ _ => 0x9
  | .setSpeed _ _ => 0xA
  | .setAcceleration _ _ => 0xB
  | .getPosition _ => 0xC
  | .getMovingState => 0xD
  | .getErrors => 0xE
  | .goHome => 0xF
  | .getScriptStatus _ => 0x8
  | .stopScript _ => 0x8
  | .restartScriptAtSubroutine _ => 0x8
  | .restartScriptAtSubroutineWithParameter _ => 0x8

def Statement (i : Instr) : Prop :=
  wellFormed i → ∀ t : Config.Tables, opField (Sys2Proof.encode t i).head = selectCode i ∧
    packetWellFormed (Sys2Proof.encode t i)

/-- A head word with no operand bytes. -/
theorem of_empty (op : BitVec 4) (b : Byte) (a : Arg16) :
    opField (headWord op 0 b a) = op ∧ packetWellFormed ⟨headWord op 0 b a, []⟩ :=
  ⟨opField_headWord op 0 b a, packetWellFormed_headWord op b a (ops := []) (Nat.zero_le _)⟩

/-- A head word with operand bytes that fit. -/
theorem of_operands (op : BitVec 4) (b : Byte) (a : Arg16) {ops : List Byte} (h : operandsFit ops) :
    opField (headWord op ops.length b a) = op ∧ packetWellFormed ⟨headWord op ops.length b a, ops⟩ :=
  ⟨opField_headWord op _ b a, packetWellFormed_headWord op b a h⟩

theorem pack16 (a : Arg16) : Statement (.pack16 a) := fun _ _ => of_empty _ _ _
theorem unpack16 (b0 b1 : Byte) : Statement (.unpack16 b0 b1) := fun _ _ => of_empty _ _ _
theorem addrDev (pid : Byte) : Statement (.addrDev pid) := fun _ _ => of_empty _ _ _
theorem addrServo (ch fid : Byte) : Statement (.addrServo ch fid) := fun _ _ => of_empty _ _ _
theorem encode (opc : Byte) (ops : List Byte) : Statement (.encode opc ops) := fun h _ => of_operands _ _ _ h
theorem codeOf (idx : Byte) : Statement (.codeOf idx) := fun _ _ => of_empty _ _ _
theorem nameOf (byte : Byte) : Statement (.nameOf byte) := fun _ _ => of_empty _ _ _
theorem decErrors (b0 b1 : Byte) : Statement (.decErrors b0 b1) := fun _ _ => of_empty _ _ _
theorem xfer (opc : Byte) (ops : List Byte) (nresp : BitVec 2) : Statement (.xfer opc ops nresp) :=
  fun h _ => of_operands _ _ _ h
theorem setTarget (ch : Byte) (a : Arg16) : Statement (.setTarget ch a) := fun _ _ => of_empty _ _ _
theorem setSpeed (ch : Byte) (a : Arg16) : Statement (.setSpeed ch a) := fun _ _ => of_empty _ _ _
theorem setAcceleration (ch : Byte) (a : Arg16) : Statement (.setAcceleration ch a) := fun _ _ => of_empty _ _ _
theorem getPosition (ch : Byte) : Statement (.getPosition ch) := fun _ _ => of_empty _ _ _
theorem getMovingState : Statement .getMovingState := fun _ _ => of_empty _ _ _
theorem getErrors : Statement .getErrors := fun _ _ => of_empty _ _ _
theorem goHome : Statement .goHome := fun _ _ => of_empty _ _ _
theorem getScriptStatus (ops : List Byte) : Statement (.getScriptStatus ops) := fun h _ => of_operands _ _ _ h
theorem stopScript (ops : List Byte) : Statement (.stopScript ops) := fun h _ => of_operands _ _ _ h
theorem restartScriptAtSubroutine (ops : List Byte) : Statement (.restartScriptAtSubroutine ops) :=
  fun h _ => of_operands _ _ _ h
theorem restartScriptAtSubroutineWithParameter (ops : List Byte) :
    Statement (.restartScriptAtSubroutineWithParameter ops) := fun h _ => of_operands _ _ _ h

end Sys2Proof.Laws.PacketForm
end

