-- ==== Sys2Proof/Laws/Run.lean ====
section
/-! SUPPORT. Runs of the machine, one step at a time. -/

namespace Sys2Proof.Machine

/-- An outcome that is known is that outcome up to `PEND`. -/
theorem answersUpToPend_of_eq {r : Result} {u : State} (h : r = .next u) : answersUpToPend r u := ⟨u, h, rfl⟩

@[simp] theorem runSteps_zero (s : State) : runSteps 0 s = .next s := rfl

/-- A run goes on from the next state of its first step. -/
theorem run_of_next {s t : State} (h : step s = .next t) (k : Nat) : runSteps (k + 1) s = runSteps k t := by
  simp only [runSteps, h]

/-- A run of at least one step that answers a next state made its first step. -/
theorem run_next_cases {s u : State} {k : Nat} (h : runSteps (k + 1) s = .next u) :
    ∃ t, step s = .next t ∧ runSteps k t = .next u := by
  cases hs : step s with
  | next t => exact ⟨t, rfl, (run_of_next hs k).symm.trans h⟩
  | fault r => simp [runSteps, hs] at h
  | refused r => simp [runSteps, hs] at h

/-- A block that takes none of its inputs stays as it is, however long it runs. -/
theorem run_of_waiting {s : State} (h : takeInput s s.inputs = none) (k : Nat) : runSteps k s = .next s := by
  induction k with
  | zero => rfl
  | succ k ih => rw [run_of_next (step_of_none h), ih]

/-- The runs of the statements are the host's runs of the machine. -/
theorem runSteps_eq_run (k : Nat) (s : State) : runSteps k s = Host.Core.run Sys2Proof.core k s := by
  induction k generalizing s with
  | zero => rfl
  | succ k ih =>
    cases hs : step s with
    | next t =>
      have h : Host.Core.step Sys2Proof.core s = .next t := hs
      simp only [runSteps, Host.Core.run, hs, h, ih]
      rfl
    | fault r =>
      have h : Host.Core.step Sys2Proof.core s = .fault r := hs
      simp only [runSteps, Host.Core.run, hs, h]
      rfl
    | refused r =>
      have h : Host.Core.step Sys2Proof.core s = .refused r := hs
      simp only [runSteps, Host.Core.run, hs, h]
      rfl

end Sys2Proof.Machine
end

