-- ==== Sys2Proof/Tests/Slice0.lean ====
section
/-! SUPPORT. Small tests of the model.  The expected values are those of 95_test_vectors.md, or written out by hand from the
rule named beside them.  The tables are the example of its V-ADDR and, as one choice of the OPEN opcode values, the
informative ones of 93_implementation_defined.md G2. -/

namespace Sys2Proof.Tests

open Sys2Proof.Machine Sys2Proof.Config

/-! ### The example design -/

/-- V-ADDR's parameter tables with the informative opcode values of G2, and `ERR_SHIFT = 7`. -/
def exTables : Tables where
  opcSetSpeed := 0x87
  opcSetAcceleration := 0x89
  opcGetPosition := 0x90
  opcGetMovingState := 0x93
  opcGetErrors := 0xA1
  opcGoHome := 0xA2
  getScriptStatus := ⟨0xAE, 0, 1⟩
  stopScript := ⟨0xA4, 0, 0⟩
  restartScript := ⟨0xA7, 1, 0⟩
  restartScriptWithParameter := ⟨0xA8, 3, 0⟩
  devparams := [⟨7, 10, 1⟩, ⟨5, 4, 2⟩]
  fields := [⟨0, 0, 2⟩, ⟨3, 4, 2⟩, ⟨8, 8, 1⟩]
  errShift := .seven
  timeout := 100

/-- A Compact block with 6 channels, right after reset. -/
def compact : State := State.resetWith ⟨.compact, 0, 6⟩ exTables

/-- An Addressed block with device identifier 12 and 6 channels, right after reset. -/
def addressed : State := State.resetWith ⟨.addressed, 12, 6⟩ exTables

/-- A Compact block in phase `ph` that expects `n` bytes of kind `k`, with these inputs to come. -/
def busyWith (ph : Phase) (k : PendKind) (n : BitVec 2) (l : List Input) : State :=
  { compact with phase := ph, pend := ⟨k, n⟩, inputs := l }

/-- The outcome is a next state with this property. -/
def answers (r : Result) (f : State → Bool) : Bool :=
  match r with
  | .next t => f t
  | .fault _ => false
  | .refused _ => false

/-- The frame that an outcome leaves in `TXBUF`, if it has sent exactly this frame. -/
def sends (r : Result) (f : List Byte) : Bool :=
  answers r (fun t => decide (currentFrame t = f ∧ t.transportLog = [.txSend f] ∧ t.phase = .tx))

/-! ### Words written out from rule R72, one for each operation -/

theorem test_decode_pack16 : decode ⟨0x00001770, []⟩ = .ok (.pack16 6000) := by decide
theorem test_decode_unpack16 : decode ⟨0x1070AB2E, []⟩ = .ok (.unpack16 0x70 0x2E) := by decide
theorem test_decode_addrDev : decode ⟨0x20C80000, []⟩ = .ok (.addrDev 200) := by decide
theorem test_decode_addrServo : decode ⟨0x30050063, []⟩ = .ok (.addrServo 5 99) := by decide
theorem test_decode_encode :
    decode ⟨0x43840000, [0x00, 0x70, 0x2E]⟩ = .ok (.encode 0x84 [0x00, 0x70, 0x2E]) := by decide
theorem test_decode_codeOf : decode ⟨0x500B0000, []⟩ = .ok (.codeOf 11) := by decide
theorem test_decode_nameOf : decode ⟨0x60840000, []⟩ = .ok (.nameOf 0x84) := by decide
theorem test_decode_decErrors : decode ⟨0x70800001, []⟩ = .ok (.decErrors 0x80 0x01) := by decide
theorem test_decode_xfer : decode ⟨0x8055FFFD, []⟩ = .ok (.xfer 0x55 [] 1) := by decide
theorem test_decode_setTarget : decode ⟨0x9003FFFF, []⟩ = .ok (.setTarget 3 0xFFFF) := by decide
theorem test_decode_setSpeed : decode ⟨0xA0030064, []⟩ = .ok (.setSpeed 3 100) := by decide
theorem test_decode_setAcceleration : decode ⟨0xB00100FF, []⟩ = .ok (.setAcceleration 1 255) := by decide
theorem test_decode_getPosition : decode ⟨0xC00B0000, []⟩ = .ok (.getPosition 11) := by decide
theorem test_decode_getMovingState : decode ⟨0xD0000000, []⟩ = .ok .getMovingState := by decide
theorem test_decode_getErrors : decode ⟨0xE0000000, []⟩ = .ok .getErrors := by decide
theorem test_decode_goHome : decode ⟨0xF1000000, [7]⟩ = .ok .goHome := by decide

/-- Rule R76: the XFER that each pseudo-operation stands for, its head word written out. -/
theorem test_encode_scripts :
    encode exTables (.getScriptStatus []) = ⟨0x80AE0001, []⟩ ∧ encode exTables (.stopScript []) = ⟨0x80A40000, []⟩ ∧
    encode exTables (.restartScriptAtSubroutine [2]) = ⟨0x81A70000, [2]⟩ ∧
    encode exTables (.restartScriptAtSubroutineWithParameter [2, 1, 0]) = ⟨0x83A80000, [2, 1, 0]⟩ := by decide

theorem test_decode_script : decode ⟨0x80AE0001, []⟩ = .ok (.xfer 0xAE [] 1) := by decide

/-- The wire rows of SET_TARGET, the one opcode the document gives: the bare opcode byte, and `AA 00 04`. -/
theorem test_decode_wire_setTarget :
    decodeTableWord 8 0x84 = some (.setTarget 0 0) ∧ decodeTableWord 24 0xAA0004 = some (.setTarget 0 0) := by decide

/-- Wire frames of V-TXN read back: T4, T9, T13 and T34. -/
theorem test_decode_frames :
    decodeFrame exTables .compact [0x84, 0x05, 0x7F, 0x7F] = some (.setTarget 5 16383) ∧
    decodeFrame exTables .compact [0x87, 0x03, 0x64, 0x00] = some (.setSpeed 3 100) ∧
    decodeFrame exTables .compact [0x90, 0x00] = some (.getPosition 0) ∧
    decodeFrame exTables .addressed [0xAA, 0x0C, 0x22] = some .goHome := by decide

/-- No table word is presented as something else: the packet of a head word is that word. -/
theorem test_packet_of_head : packetOfTableWord exTables 32 0x43840000 = some ⟨0x43840000, [0, 0, 0]⟩ := by decide

/-- The first step after reset runs the word that is presented to it. -/
theorem test_first_step : ∃ t, step (State.reset.withFetchWord 32 0x00001770) = .next t ∧ t.rb0 = 0x70 ∧ t.rb1 = 0x2E :=
  ⟨_, rfl, by decide⟩

/-! ### Ill-formed terms, one for each check -/

def sixteen : List Byte := List.replicate 16 0

def fifteen : List Byte := List.replicate 15 1

theorem test_wf_encode : ¬ wellFormed (.encode 0 sixteen) := by decide
theorem test_wf_xfer : ¬ wellFormed (.xfer 0 sixteen 0) := by decide
theorem test_wf_getScriptStatus : ¬ wellFormed (.getScriptStatus sixteen) := by decide
theorem test_wf_stopScript : ¬ wellFormed (.stopScript sixteen) := by decide
theorem test_wf_restartScript : ¬ wellFormed (.restartScriptAtSubroutine sixteen) := by decide
theorem test_wf_restartScriptWithParameter : ¬ wellFormed (.restartScriptAtSubroutineWithParameter sixteen) := by decide
theorem test_wf_packet : ¬ packetWellFormed ⟨0x43840000, [1, 2]⟩ := by decide
theorem test_wf_packet_refused : decode ⟨0x43840000, [1, 2]⟩ = .error .operandCount := by decide
theorem test_wf_opcodes : ¬ opcodesDistinct { exTables with opcGoHome := 0x84 } := by decide
theorem test_wf_masked_opcodes : ¬ maskedOpcodesDistinct { exTables with opcGoHome := 0x04 } := by decide
theorem test_wf_param_twice : ¬ paramTableWellFormed [⟨7, 10, 1⟩, ⟨7, 4, 2⟩] := by decide
theorem test_wf_param_width : ¬ paramTableWellFormed [⟨7, 10, 0⟩] := by decide
theorem test_wf_field_offset : ¬ fieldOffsetsFit { exTables with fields := [⟨3, 63220, 2⟩] } := by decide
theorem test_wf_tables : tablesWellFormed exTables ∧ maskedOpcodesDistinct exTables := by decide
theorem test_wf_tables_refused : ¬ tablesWellFormed { exTables with devparams := [⟨7, 10, 0⟩] } := by decide
theorem test_wf_buffer : ¬ Memory.wf txCap [(0, 0)] ∧ ¬ Memory.wf txCap [(1, 1), (0, 1)] ∧ ¬ Memory.wf maxResp [(3, 1)] := by
  decide

/-- Log entry 22: with two rows on one masked opcode the model's receiver reads the lower one (rules R68, R125). -/
theorem test_masked_tie :
    decodeFrame { exTables with opcGoHome := 0x13 } .addressed [0xAA, 0x0C, 0x13] = some .getMovingState := by decide

/-! ### The operations -/

/-- V-PACK: `PACK16 6000`. -/
theorem test_pack16 : answers (exec (.pack16 6000) compact) (fun t => t.status = 0 && t.rb0 = 0x70 && t.rb1 = 0x2E) := by
  decide

/-- V-PACK: `PACK16 16384` and `PACK16 -16384`, nothing truncated. -/
theorem test_pack16_range :
    exec (.pack16 0x4000) compact = .next { compact with status := 3 } ∧
    exec (.pack16 0xC000) compact = .next { compact with status := 3 } := ⟨rfl, rfl⟩

/-- V-UNPACK: `|` is not `+`. -/
theorem test_unpack16_overlap : answers (exec (.unpack16 0x80 0x01) compact) (fun t => t.rval = 0x0080) := by decide

/-- V-UNPACK: the largest result. -/
theorem test_unpack16_largest : answers (exec (.unpack16 0xFF 0xFF) compact) (fun t => t.rval = 0x7FFF) := by decide

/-- V-ADDR: `ADDR_DEV 7` and `ADDR_DEV 200`. -/
theorem test_addrDev :
    answers (exec (.addrDev 7) compact) (fun t => t.status = 0 && t.roff = 10 && t.rwid = 1) ∧
    exec (.addrDev 200) compact = .next { compact with status := 1 } := ⟨by decide, rfl⟩

/-- V-ADDR: `ADDR_SERVO 5, 3`, the last valid channel. -/
theorem test_addrServo : answers (exec (.addrServo 5 3) compact) (fun t => t.status = 0 && t.roff = 79 && t.rwid = 2) := by
  decide

/-- V-ADDR: `ADDR_SERVO 5, 99` and `ADDR_SERVO 6, 99`: the channel is reported first. -/
theorem test_addrServo_errors :
    exec (.addrServo 5 99) compact = .next { compact with status := 1 } ∧
    exec (.addrServo 6 99) compact = .next { compact with status := 2 } := ⟨rfl, rfl⟩

/-- V-FRAME: `ENCODE 0x84, [0x00, 0x70, 0x2E]` in both formats. -/
theorem test_encode :
    answers (exec (.encode 0x84 [0x00, 0x70, 0x2E]) compact)
      (fun t => currentFrame t = [0x84, 0x00, 0x70, 0x2E] && t.transportLog = []) ∧
    answers (exec (.encode 0x84 [0x00, 0x70, 0x2E]) addressed)
      (fun t => currentFrame t = [0xAA, 0x0C, 0x04, 0x00, 0x70, 0x2E]) := by decide

/-- V-FRAME: `DEVID = 140` sends 12; an operand byte keeps its bit 7. -/
theorem test_encode_masks :
    answers (exec (.encode 0x84 [0xFF]) { addressed with devid := 140 })
      (fun t => currentFrame t = [0xAA, 0x0C, 0x04, 0xFF]) := by decide

/-- V-CODE: `CODE_OF 10` and `CODE_OF 11`. -/
theorem test_codeOf :
    answers (exec (.codeOf 10) compact) (fun t => t.status = 0 && t.rval = 0x00A8) ∧
    exec (.codeOf 11) compact = .next { compact with status := 1 } := ⟨by decide, rfl⟩

/-- V-CODE: `NAME_OF 0xA8` hits row 10, the masked form `0x04` misses and leaves `RB0`. -/
theorem test_nameOf :
    answers (exec (.nameOf 0xA8) compact) (fun t => t.hit && t.rb0 = 10 && t.status = 0) ∧
    answers (exec (.nameOf 0x04) { compact with rb0 := 9, hit := true }) (fun t => !t.hit && t.rb0 = 9 && t.status = 0) := by
  decide

/-- V-ERR: `DEC_ERRORS 0x00, 0x03` with `ERR_SHIFT` 7 and 8. -/
theorem test_decErrors :
    answers (exec (.decErrors 0x00 0x03) compact)
      (fun t => t.rval = 0x0180 && t.errknown = 0b110000000 && t.errunrec = 0) ∧
    answers (exec (.decErrors 0x00 0x03) { compact with tables := { exTables with errShift := .eight } })
      (fun t => t.rval = 0x0300 && t.errknown = 0b100000000 && t.errunrec = 1) := by decide

/-- V-ERR: `DEC_ERRORS 0x7F, 0x7F`, all nine conditions and five reserved bits. -/
theorem test_decErrors_reserved :
    answers (exec (.decErrors 0x7F 0x7F) compact)
      (fun t => t.rval = 0x3FFF && t.errknown = 0b111111111 && t.errunrec = 0b0011111 && t.status = 0) := by decide

/-- T36, T39: an XFER sends what it is given. -/
theorem test_xfer : sends (exec (.xfer 0x84 [0x02, 0x70, 0x2E] 0) compact) [0x84, 0x02, 0x70, 0x2E] = true := by decide

/-- T4 and T2. -/
theorem test_setTarget :
    sends (exec (.setTarget 5 16383) compact) [0x84, 0x05, 0x7F, 0x7F] = true ∧
    sends (exec (.setTarget 0 6000) addressed) [0xAA, 0x0C, 0x04, 0x00, 0x70, 0x2E] = true := by decide

/-- T7 (the channel is not checked) and T6. -/
theorem test_setTarget_checks :
    sends (exec (.setTarget 200 0) compact) [0x84, 0xC8, 0x00, 0x00] = true ∧
    exec (.setTarget 3 0xFFFF) compact = .next { compact with status := 3 } := ⟨by decide, rfl⟩

/-- T9 and T10. -/
theorem test_setSpeed :
    sends (exec (.setSpeed 3 100) compact) [0x87, 0x03, 0x64, 0x00] = true ∧
    exec (.setSpeed 3 16384) compact = .next { compact with status := 3 } := ⟨by decide, rfl⟩

/-- T11 and T12. -/
theorem test_setAcceleration :
    sends (exec (.setAcceleration 1 255) compact) [0x89, 0x01, 0x7F, 0x01] = true ∧
    exec (.setAcceleration 1 0x8000) compact = .next { compact with status := 3 } := ⟨by decide, rfl⟩

/-- T14 and T15. -/
theorem test_getPosition :
    sends (exec (.getPosition 5) compact) [0x90, 0x05] = true ∧
    exec (.getPosition 6) compact = .next { compact with status := 2 } := ⟨by decide, rfl⟩

/-- T25, T30 and T34: the commands without operands. -/
theorem test_bare_opcodes :
    sends (exec .getMovingState compact) [0x93] = true ∧ sends (exec .getErrors compact) [0xA1] = true ∧
    sends (exec .goHome addressed) [0xAA, 0x0C, 0x22] = true := by decide

/-- Rules R162 to R165: each row's own opcode, the host's operand bytes, the row's response length. -/
theorem test_scripts :
    sends (exec (.getScriptStatus []) compact) [0xAE] = true ∧ sends (exec (.stopScript []) compact) [0xA4] = true ∧
    sends (exec (.restartScriptAtSubroutine [2]) compact) [0xA7, 0x02] = true ∧
    sends (exec (.restartScriptAtSubroutineWithParameter [2, 1, 0]) compact) [0xA8, 0x02, 0x01, 0x00] = true ∧
    answers (exec (.getScriptStatus []) compact) (fun t => t.pend = ⟨.raw, 1⟩) := by decide

/-! ### The other steps -/

/-- T1 and T8: the two answers to a send with no response expected. -/
theorem test_txAnswer :
    step (busyWith .tx .none 0 [.txAnswer .ok]) = .next { busyWith .tx .none 0 [] with phase := .idle, rxlen := 0 } ∧
    step (busyWith .tx .none 0 [.txAnswer .ioerr]) = .next { busyWith .tx .none 0 [] with phase := .idle, status := 4 } :=
  ⟨rfl, rfl⟩

/-- Q2: a read of two bytes follows the send of GET_POSITION. -/
theorem test_txAnswer_then_read :
    answers (step (busyWith .tx .position 2 [.txAnswer .ok]))
      (fun t => t.phase = .rx && t.transportLog = [.rxRequest 2 100] && t.status = 0) := by decide

/-- T13: the position. -/
theorem test_rxAnswer_position :
    answers (step (busyWith .rx .position 2 [.rxAnswer (.ok [0x70, 0x2E])]))
      (fun t => t.rval = 0x1770 && t.rxbuf = [(0, 0x70), (1, 0x2E)] && t.rxlen = 2 && t.phase = .idle && t.status = 0) := by
  decide

/-- T27: any byte but 0 means moving. -/
theorem test_rxAnswer_moving :
    answers (step (busyWith .rx .moving 1 [.rxAnswer (.ok [0x80])])) (fun t => t.rval = 0x0080 && t.moving) := by decide

/-- T30: serial signal and serial buffer full. -/
theorem test_rxAnswer_errors :
    answers (step (busyWith .rx .errors 2 [.rxAnswer (.ok [0x05, 0x00])]))
      (fun t => conditionReported .serialSignal t && conditionReported .serialBufferFull t && t.errknown = 0b101 &&
        t.errunrec = 0 && t.status = 0) := by decide

/-- T37: a raw response of three bytes, nothing decoded. -/
theorem test_rxAnswer_raw :
    answers (step (busyWith .rx .raw 3 [.rxAnswer (.ok [1, 2, 3])]))
      (fun t => t.rxbuf = [(0, 1), (1, 2), (2, 3)] && t.rxlen = 3 && t.rval = 0) := by decide

/-- T18 to T21: the failures of a read, nothing kept. -/
theorem test_rxAnswer_failures :
    step (busyWith .rx .position 2 [.rxAnswer .ioerr]) = .next { busyWith .idle .position 2 [] with status := 4 } ∧
    step (busyWith .rx .position 2 [.rxAnswer .timeout]) = .next { busyWith .idle .position 2 [] with status := 5 } ∧
    step (busyWith .rx .position 2 [.rxAnswer (.ok [0x70])]) = .next { busyWith .idle .position 2 [] with status := 6 } ∧
    step (busyWith .rx .position 2 [.rxAnswer (.ok [0x70, 0x2E, 0])]) =
      .next { busyWith .idle .position 2 [] with status := 6 } := ⟨rfl, rfl, rfl, rfl⟩

/-- Q3: a command that is presented while the block reads waits behind the answer. -/
theorem test_command_waits :
    answers (step (busyWith .rx .position 2 [.command ⟨0xF0000000, []⟩, .rxAnswer (.ok [0, 0])]))
      (fun t => t.inputs = [.command ⟨0xF0000000, []⟩] && t.phase = .idle) := by decide

/-- Q4: a reset during a transaction, with other straps. -/
theorem test_reset :
    step { busyWith .rx .position 2 [.resetRelease ⟨.addressed, 12, 6⟩] with resetAsserted := true, rval := 7, status := 5 } =
      .next addressed := rfl

/-- Rule R71: a head word whose `OPLEN` is not the number of bytes beside it is no packet. -/
theorem test_malformed_packet :
    step { compact with inputs := [.command ⟨0x43840000, [1, 2]⟩] } = .refused .malformedPacket := rfl

/-! ### The hypotheses of the statements, met at their boundary values -/

theorem inv_compact (l : List Input) : Inv { compact with inputs := l } :=
  ⟨Memory.wf_nil _, Memory.wf_nil _, Nat.zero_le _, Nat.zero_le _, fun h => absurd rfl h, trivial⟩

theorem witness_PackGivesLowAndHighSevenBits : (0 ≤ 16383 ∧ 16383 ≤ 16383) ∧ representable 0 = true ∧ representable 16383 = true ∧
    representable 16384 = false ∧ representable (-1) = false := by decide

/-- Packets that meet the premises of `selects`, the unused fields not zero. -/
theorem witness_SelectCodesChooseTheOperation :
    packetWellFormed ⟨0x0FFF1770, fifteen⟩ ∧ opField 0x0FFF1770 = 0x0 ∧ packetWellFormed ⟨0xF1000000, [7]⟩ ∧
    opField 0xF1000000 = 0xF := by decide

theorem witness_UnpackInvertsPack : canonical 0 0 = true ∧ canonical 0x7F 0x7F = true ∧ canonical 0x80 0x00 = false ∧
    canonical 0x00 0x80 = false := by decide

theorem witness_UnpackUsesEveryBit : canonical 0x7F 0x7F = true := by decide

theorem witness_Pack16Completes : fits14 0 ∧ fits14 0x3FFF ∧ ¬ fits14 0x4000 ∧ ¬ fits14 0x8000 ∧ ¬ fits14 0xFFFF := by
  unfold fits14
  decide

theorem witness_AddrDevCompletes : paramTableWellFormed compact.tables.devparams ∧
    (⟨7, 10, 1⟩ : ParamRow) ∈ compact.tables.devparams ∧ ∀ r ∈ compact.tables.devparams, r.id ≠ 200 := by decide

theorem witness_AddrServoCompletes : paramTableWellFormed compact.tables.fields ∧ fieldOffsetsFit compact.tables ∧
    (⟨3, 4, 2⟩ : ParamRow) ∈ compact.tables.fields ∧ (5 : Byte).toNat < compact.nch.toNat ∧
    (∀ r ∈ compact.tables.fields, r.id ≠ 99) ∧ compact.nch.toNat ≤ (6 : Byte).toNat := by decide

/-- The last offset that fits (rule R95): 254 channels along, `ROFF = 65535`. -/
theorem witness_AddrServo_boundary : fieldOffsetsFit { exTables with fields := [⟨3, 63219, 1⟩] } ∧
    answers (exec (.addrServo 254 3) { compact with nch := 255, tables := { exTables with fields := [⟨3, 63219, 1⟩] } })
      (fun t => t.roff = 65535) := by decide

/-- For FramesHaveTheTwoFormats, EncodeCompletes, IssueStep, SetOperationsIssue, BareOpcodesIssue, XferIssues and
ScriptOperationsIssue: the shortest and the longest operand list, and the buffer. -/
theorem witness_operands_fit : ([] : List Byte).length ≤ 15 ∧ fifteen.length ≤ 15 ∧ 15 < sixteen.length ∧
    Memory.wf txCap compact.txbuf := by decide

theorem witness_EncodeCompletes : answers (exec (.encode 0x10 fifteen) addressed) (fun t => t.txlen = 18) := by decide

theorem witness_OverlongOperandListsStop : 15 < sixteen.length := by decide

theorem witness_CodeOfCompletes : (10 : Byte).toNat ≤ 10 ∧ 10 < (11 : Byte).toNat := by decide

theorem witness_NameOfCompletes : opcodesDistinct compact.tables ∧
    (cmdtab compact.tables)[10]? = some ⟨0xA8, 3, 0⟩ ∧ ∀ r ∈ cmdtab compact.tables, r.value ≠ 0x04 := by decide

theorem witness_NameOfInvertsCodeOf : opcodesDistinct compact.tables ∧ (10 : Byte).toNat ≤ 10 := by decide

theorem witness_GetPositionIssues : Memory.wf txCap compact.txbuf ∧ (5 : Byte).toNat < compact.nch.toNat ∧
    compact.nch.toNat ≤ (6 : Byte).toNat := by decide

theorem witness_TransmitAnswerStep :
    (∃ s : State, s.phase = .tx ∧ s.resetAsserted = false ∧ s.inputs = [.txAnswer .ioerr]) ∧
    (∃ s : State, s.phase = .tx ∧ s.resetAsserted = false ∧ s.inputs = [.txAnswer .ok] ∧ s.pend.n = 0) ∧
    ∃ s : State, s.phase = .tx ∧ s.resetAsserted = false ∧ s.inputs = [.txAnswer .ok] ∧ s.pend.n ≠ 0 :=
  ⟨⟨busyWith .tx .none 0 [.txAnswer .ioerr], by decide⟩, ⟨busyWith .tx .none 0 [.txAnswer .ok], by decide⟩,
    ⟨busyWith .tx .raw 3 [.txAnswer .ok], by decide⟩⟩

theorem witness_ReceiveFailuresKeepNothing :
    (busyWith .rx .position 2 [.rxAnswer (.ok [0x70])]).phase = .rx ∧
    (busyWith .rx .position 2 [.rxAnswer (.ok [0x70])]).resetAsserted = false ∧
    [(0x70 : Byte)].length ≠ (busyWith .rx .position 2 []).pend.n.toNat := by decide

theorem witness_ReceivedResponseIsDecoded :
    Memory.wf maxResp compact.rxbuf ∧ pendLegal ⟨.raw, 3⟩ ∧ pendLegal ⟨.none, 0⟩ ∧ pendLegal ⟨.position, 2⟩ ∧
    pendLegal ⟨.moving, 1⟩ ∧ pendLegal ⟨.errors, 2⟩ ∧ (busyWith .rx .raw 3 [.rxAnswer (.ok [1, 2, 3])]).phase = .rx ∧
    (busyWith .rx .raw 3 [.rxAnswer (.ok [1, 2, 3])]).resetAsserted = false ∧
    [(1 : Byte), 2, 3].length = (busyWith .rx .raw 3 []).pend.n.toNat :=
  ⟨by decide, trivial, rfl, rfl, rfl, rfl, rfl, rfl, rfl⟩

theorem witness_GetPositionTransaction :
    ready { compact with inputs := [.command ⟨0xC0050000, []⟩, .txAnswer .ok, .rxAnswer (.ok [0x70, 0x2E])] } = true ∧
    Inv { compact with inputs := [.command ⟨0xC0050000, []⟩, .txAnswer .ok, .rxAnswer (.ok [0x70, 0x2E])] } ∧
    decode ⟨0xC0050000, []⟩ = .ok (.getPosition 5) ∧ (5 : Byte).toNat < compact.nch.toNat :=
  ⟨rfl, inv_compact _, by decide, by decide⟩

theorem witness_GetMovingStateTransaction :
    ready { compact with inputs := [.command ⟨0xD0000000, []⟩, .txAnswer .ok, .rxAnswer (.ok [1])] } = true ∧
    Inv { compact with inputs := [.command ⟨0xD0000000, []⟩, .txAnswer .ok, .rxAnswer (.ok [1])] } ∧
    decode ⟨0xD0000000, []⟩ = .ok .getMovingState := ⟨rfl, inv_compact _, by decide⟩

theorem witness_GetErrorsTransaction :
    ready { compact with inputs := [.command ⟨0xE0000000, []⟩, .txAnswer .ok, .rxAnswer (.ok [5, 0])] } = true ∧
    Inv { compact with inputs := [.command ⟨0xE0000000, []⟩, .txAnswer .ok, .rxAnswer (.ok [5, 0])] } ∧
    decode ⟨0xE0000000, []⟩ = .ok .getErrors := ⟨rfl, inv_compact _, by decide⟩

theorem witness_SetTargetTransaction :
    ready { compact with inputs := [.command ⟨0x90053FFF, []⟩, .txAnswer .ok] } = true ∧
    Inv { compact with inputs := [.command ⟨0x90053FFF, []⟩, .txAnswer .ok] } ∧
    decode ⟨0x90053FFF, []⟩ = .ok (.setTarget 5 0x3FFF) ∧ fits14 0x3FFF :=
  ⟨rfl, inv_compact _, by decide, by decide, by decide⟩

theorem witness_CommandsWithoutResponseEnd :
    ready { compact with inputs := [.command ⟨0xF0000000, []⟩, .txAnswer .ok] } = true ∧
    Inv { compact with inputs := [.command ⟨0xF0000000, []⟩, .txAnswer .ok] } ∧ decode ⟨0xF0000000, []⟩ = .ok .goHome ∧
    responseLength compact.tables .goHome = some 0 ∧
    wireFrame compact.tables compact.variant compact.devid .goHome = some [0xA2] :=
  ⟨rfl, inv_compact _, by decide, rfl, rfl⟩

theorem witness_XferTransaction :
    ready { compact with inputs := [.command ⟨0x80550003, []⟩, .txAnswer .ok, .rxAnswer (.ok [1, 2, 3])] } = true ∧
    Inv { compact with inputs := [.command ⟨0x80550003, []⟩, .txAnswer .ok, .rxAnswer (.ok [1, 2, 3])] } ∧
    decode ⟨0x80550003, []⟩ = .ok (.xfer 0x55 [] 3) ∧ (3 : BitVec 2) ≠ 0 ∧ [(1 : Byte), 2, 3].length = (3 : BitVec 2).toNat :=
  ⟨rfl, inv_compact _, by decide, by decide, rfl⟩

theorem witness_EveryCommandEndsAfterTwoAnswers :
    ready { compact with inputs := [.command ⟨0xC0000000, []⟩, .txAnswer .ok, .rxAnswer .timeout] } = true ∧
    packetWellFormed ⟨0xC0000000, []⟩ := by decide

/-- A run that ends with `ResponseTimeout`. -/
theorem witness_FailuresKeepEveryResult :
    ready { compact with inputs := [.command ⟨0xC0000000, []⟩, .txAnswer .ok, .rxAnswer .timeout] } = true ∧
    decode ⟨0xC0000000, []⟩ = .ok (.getPosition 0) ∧
    ∃ t, runSteps 3 { compact with inputs := [.command ⟨0xC0000000, []⟩, .txAnswer .ok, .rxAnswer .timeout] } = .next t ∧
      t.status ≠ 0 := ⟨rfl, by decide, _, rfl, by decide⟩

theorem witness_OperationsEndWithTheirStatuses :
    decode ⟨0xC0000000, []⟩ = .ok (.getPosition 0) ∧
    ∃ t, runSteps 3 { compact with inputs := [.command ⟨0xC0000000, []⟩, .txAnswer .ok, .rxAnswer .timeout] } = .next t :=
  ⟨by decide, _, rfl⟩

theorem witness_OperationsSendTheirWireFrame :
    ∃ t, exec (.getPosition 5) compact = .next t ∧ t.transportLog ≠ compact.transportLog := ⟨_, rfl, by decide⟩

theorem witness_SetFramesKeepBitSevenClear :
    wireFrame exTables .addressed 12 (.setTarget 0xFF 0x3FFF) = some [0xAA, 0x0C, 0x04, 0xFF, 0x7F, 0x7F] ∧
    wireFrame exTables .addressed 12 (.setSpeed 0xFF 0x3FFF) = some [0xAA, 0x0C, 0x07, 0xFF, 0x7F, 0x7F] ∧
    wireFrame exTables .addressed 12 (.setAcceleration 0xFF 0x3FFF) = some [0xAA, 0x0C, 0x09, 0xFF, 0x7F, 0x7F] ∧
    ([0xAA, 0x0C, 0x04, 0xFF, 0x7F, 0x7F] : List Byte)[5]? = some 0x7F := by decide

/-- For ReleaseOfReset, AssertedResetHoldsTheBlock and ResetIsTakenInAnyPhase. -/
theorem witness_reset_inputs :
    ({ compact with resetAsserted := true, inputs := [.resetRelease ⟨.addressed, 255, 255⟩] } : State).resetAsserted = true ∧
    (∀ st, .resetRelease st ∉ ({ compact with resetAsserted := true, inputs := [.command ⟨0, []⟩] } : State).inputs) ∧
    ({ compact with inputs := [.resetAssert] } : State).resetAsserted = false := ⟨rfl, by simp, rfl⟩

theorem witness_CommandsWaitWhileBusy :
    ready (busyWith .rx .position 2 [.command ⟨0, []⟩, .rxAnswer .timeout]) = false ∧
    ∃ t, step (busyWith .rx .position 2 [.command ⟨0, []⟩, .rxAnswer .timeout]) = .next t := ⟨rfl, _, rfl⟩

theorem witness_CommandsAreTakenInOrder :
    ∃ t, step { compact with inputs := [.command ⟨0, []⟩, .command ⟨0xF0000000, []⟩] } = .next t := ⟨_, rfl⟩

theorem witness_BlockWaitsForItsInput :
    ∀ x ∈ (busyWith .tx .none 0 [.command ⟨0, []⟩, .rxAnswer .ioerr]).inputs,
      inputEnabled (busyWith .tx .none 0 [.command ⟨0, []⟩, .rxAnswer .ioerr]) x = false := by decide

theorem witness_StepRunsTheDecodedOperation :
    ready { compact with inputs := [.txAnswer .ok, .command ⟨0xF0000000, []⟩] } = true ∧
    (∀ x ∈ [Input.txAnswer .ok],
      inputEnabled { compact with inputs := [.txAnswer .ok, .command ⟨0xF0000000, []⟩] } x = false) ∧
    decode ⟨0xF0000000, []⟩ = .ok .goHome := by decide

theorem witness_ConfigurationIsConstant :
    (∃ t, step { compact with inputs := [.command ⟨0, []⟩] } = .next t) ∧ compact.resetAsserted = false := ⟨⟨_, rfl⟩, rfl⟩

theorem witness_PureOperationsStayOffTheTransport :
    isPure (.encode 0x10 fifteen) = true ∧ wellFormed (.encode 0x10 fifteen) ∧ compact.phase = .idle := by decide

theorem witness_BusyHostSeesTheOldResults :
    (Memory.wf txCap compact.txbuf ∧ compact.phase = .idle ∧ ∃ t, exec (.getPosition 5) compact = .next t ∧ t.phase ≠ .idle) ∧
    ∃ t, step (busyWith .tx .position 2 [.txAnswer .ok]) = .next t ∧ t.phase = .rx :=
  ⟨⟨by decide, rfl, _, rfl, by decide⟩, _, rfl, by decide⟩

theorem witness_PendIsDeadWhileIdle :
    compact.phase = .idle ∧ ∃ t, step { compact with inputs := [.command ⟨0xC0050000, []⟩] } = .next t ∧ t.phase ≠ .idle :=
  ⟨rfl, _, rfl, by decide⟩

theorem witness_DecodeInvertsEncode :
    wellFormed (.encode 0x10 fifteen) ∧ isPseudo (.encode 0x10 fifteen) = false ∧ wellFormed (.stopScript fifteen) := by decide

/-- One pair of head words for each clause: the used fields agree, the others differ. -/
theorem witness_NoCommandIsIllegal :
    packetWellFormed ⟨0x43840000, [0, 0x70, 0x2E]⟩ ∧
    (opField 0x00001770 = opField 0x0FFF1770 ∧ aField 0x00001770 = aField 0x0FFF1770) ∧
    (opField 0x1070002E = opField 0x1F70AB2E ∧ bField 0x1070002E = bField 0x1F70AB2E ∧
      argLow8 (aField 0x1070002E) = argLow8 (aField 0x1F70AB2E)) ∧
    (opField 0xC0050000 = opField 0xCF05FFFF ∧ bField 0xC0050000 = bField 0xCF05FFFF) ∧
    (opField 0x41840000 = opField 0x4184FFFF ∧ bField 0x41840000 = bField 0x4184FFFF) ∧
    (opField 0x80550001 = opField 0x8055FFFD ∧ bField 0x80550001 = bField 0x8055FFFD ∧
      argLow2 (aField 0x80550001) = argLow2 (aField 0x8055FFFD)) ∧
    (opField 0x90053FFF = opField 0x9F053FFF ∧ aField 0x90053FFF = aField 0x9F053FFF) ∧
    opField 0xF0000000 = opField 0xFFFFFFFF := by decide

theorem witness_WireFramesCarryTheirCommand :
    opcodesDistinct exTables ∧ maskedOpcodesDistinct exTables ∧
    wireFrame exTables .compact 12 (.setTarget 5 0x3FFF) = some [0x84, 0x05, 0x7F, 0x7F] ∧
    wireFrame exTables .addressed 12 (.stopScript fifteen) = some ([0xAA, 0x0C, 0x24] ++ fifteen) := by decide

theorem witness_StepKeepsInv :
    Inv { compact with inputs := [.command ⟨0xC0050000, []⟩] } ∧
    ∃ t, step { compact with inputs := [.command ⟨0xC0050000, []⟩] } = .next t := ⟨inv_compact _, _, rfl⟩

theorem witness_RunsNeverStop :
    inputsSafe { compact with inputs := [.command ⟨0x43840000, [0, 0x70, 0x2E]⟩, .txAnswer .ok] } := by
  unfold inputsSafe
  decide

end Sys2Proof.Tests
end

section
/-! PROOFS. The pure operations of rule R9 (00_scope.md).  The part of the state that rule R9 puts out of their reach is one
value, `transportSide`; each update that a pure operation is built from leaves it as it was, `raiseError` where the phase is
IDLE already. -/

namespace Sys2Proof.Proofs.Scope

open Sys2Proof.Machine Sys2Proof.Config

/-- The state without the registers that a pure operation may write, which are `STATUS`, the result registers and the frame
in `TXBUF` and `TXLEN` (rules R8, R9). -/
structure TransportSide where
  variant : Variant
  devid : Byte
  nch : Byte
  tables : Tables
  rxbuf : Memory
  rxlen : BitVec 2
  phase : Phase
  pend : Pend
  resetAsserted : Bool
  inputs : List Input
  transportLog : List Request

/-- The transport's side of a state. -/
def transportSide (s : State) : TransportSide where
  variant := s.variant
  devid := s.devid
  nch := s.nch
  tables := s.tables
  rxbuf := s.rxbuf
  rxlen := s.rxlen
  phase := s.phase
  pend := s.pend
  resetAsserted := s.resetAsserted
  inputs := s.inputs
  transportLog := s.transportLog

/-! ### What each update leaves of it -/

@[simp] theorem transportSide_endOk (s : State) : transportSide (endOk s) = transportSide s := rfl

@[simp] theorem transportSide_setRval (v : BitVec 16) (s : State) : transportSide (setRval v s) = transportSide s := rfl

@[simp] theorem transportSide_setPacked (b0 b1 : Byte) (s : State) :
    transportSide (setPacked b0 b1 s) = transportSide s := rfl

@[simp] theorem transportSide_setAddress (off : BitVec 16) (wid : Byte) (s : State) :
    transportSide (setAddress off wid s) = transportSide s := rfl

@[simp] theorem transportSide_setName (found : Option Nat) (s : State) :
    transportSide (setName found s) = transportSide s := by
  cases found <;> rfl

@[simp] theorem transportSide_storeFrame (f : List Byte) (s : State) :
    transportSide (storeFrame f s) = transportSide s := rfl

@[simp] theorem transportSide_decodeErrors (b0 b1 : Byte) (s : State) :
    transportSide (decodeErrors b0 b1 s) = transportSide s := rfl

/-- Raising an error writes PHASE = IDLE (rule R207), which is no change where the block is in IDLE (log entry 14). -/
theorem transportSide_raiseError {s : State} (hs : s.phase = .idle) (e : ErrorKind) :
    transportSide (raiseError e s) = transportSide s := by
  simp [transportSide, hs]

theorem transportSide_guarded {s : State} (hs : s.phase = .idle) (check : Option ErrorKind) {effect : State → State}
    (h : transportSide (effect s) = transportSide s) : transportSide (guarded check effect s) = transportSide s := by
  obtain ⟨e, -, hr⟩ | ⟨-, he⟩ := guarded_cases check effect s
  · rw [hr, transportSide_raiseError hs]
  · rw [he, h]

theorem transportSide_withParam {s : State} (hs : s.phase = .idle) (rows : List ParamRow) (id : Byte)
    {effect : ParamRow → State → State} (h : ∀ r, transportSide (effect r s) = transportSide s) :
    transportSide (withParam rows id effect s) = transportSide s := by
  cases hp : paramOf rows id with
  | none => rw [withParam_of_none hp, transportSide_raiseError hs]
  | some r => rw [withParam_of_some hp, h]

/-! ### The eight pure operations -/

/-- An operation completes in this step and leaves the transport's side of `s` as it was. -/
def completesOffTransport (r : Result) (s : State) : Prop := ∃ t, r = .next t ∧ transportSide t = transportSide s

theorem execPack16_offTransport {s : State} (hs : s.phase = .idle) (a : Arg16) :
    completesOffTransport (execPack16 a s) s :=
  ⟨_, rfl, transportSide_guarded hs _ (by simp)⟩

theorem execUnpack16_offTransport (b0 b1 : Byte) (s : State) : completesOffTransport (execUnpack16 b0 b1 s) s :=
  ⟨_, rfl, by simp⟩

theorem execAddrDev_offTransport {s : State} (hs : s.phase = .idle) (pid : Byte) :
    completesOffTransport (execAddrDev pid s) s :=
  ⟨_, rfl, transportSide_withParam hs _ _ (by simp)⟩

theorem execAddrServo_offTransport {s : State} (hs : s.phase = .idle) (ch fid : Byte) :
    completesOffTransport (execAddrServo ch fid s) s :=
  ⟨_, rfl, transportSide_guarded hs _ (transportSide_withParam hs _ _ (by simp))⟩

theorem execEncode_offTransport (opc : Byte) {ops : List Byte} (hops : operandsFit ops) (s : State) :
    completesOffTransport (execEncode opc ops s) s :=
  ⟨_, withOperands_of_fit hops _ s, by simp⟩

theorem execCodeOf_offTransport {s : State} (hs : s.phase = .idle) (idx : Byte) :
    completesOffTransport (execCodeOf idx s) s := by
  refine ⟨_, rfl, ?_⟩
  cases rowOf s.tables idx.toNat with
  | none => exact transportSide_raiseError hs _
  | some r => simp

theorem execNameOf_offTransport (byte : Byte) (s : State) : completesOffTransport (execNameOf byte s) s :=
  ⟨_, rfl, by simp⟩

theorem execDecErrors_offTransport (b0 b1 : Byte) (s : State) : completesOffTransport (execDecErrors b0 b1 s) s :=
  ⟨_, rfl, by simp⟩

theorem exec_offTransport_of_isPure {i : Instr} {s : State} (hpure : isPure i = true) (hwf : wellFormed i)
    (hs : s.phase = .idle) : completesOffTransport (exec i s) s := by
  cases i with
  | pack16 a => exact execPack16_offTransport hs a
  | unpack16 b0 b1 => exact execUnpack16_offTransport b0 b1 s
  | addrDev pid => exact execAddrDev_offTransport hs pid
  | addrServo ch fid => exact execAddrServo_offTransport hs ch fid
  | encode opc ops => exact execEncode_offTransport opc hwf s
  | codeOf idx => exact execCodeOf_offTransport hs idx
  | nameOf byte => exact execNameOf_offTransport byte s
  | decErrors b0 b1 => exact execDecErrors_offTransport b0 b1 s
  | _ => cases hpure

/-- Settles O48: the next state has the same `transportSide`, read off field by field. -/
theorem pureOperationsStayOffTheTransport : Obligations.PureOperationsStayOffTheTransport := by
  intro i s hpure hwf hs
  obtain ⟨t, ht, hside⟩ := exec_offTransport_of_isPure hpure hwf hs
  simp only [transportSide, TransportSide.mk.injEq] at hside
  obtain ⟨hvariant, hdevid, hnch, htables, hrxbuf, hrxlen, hphase, hpend, -, hinputs, hlog⟩ := hside
  exact ⟨t, ht, hphase.trans hs, hpend, hlog, hinputs, hrxbuf, hrxlen, hvariant, hdevid, hnch, htables⟩

end Sys2Proof.Proofs.Scope
end

section
/-! PROOFS. What an accepted command can do, said once for the statements of 10_state.md: its effect is one of four, and which
one it is does not depend on `PEND`.  A step takes nothing, or one input that is enabled and was waiting. -/

namespace Sys2Proof.Proofs.Effects

open Sys2Proof.Machine Sys2Proof.Config

/-- The same state with another `PEND` (rule R28). -/
def withPend (p : Pend) (s : State) : State := { s with pend := p }

/-- What an accepted command does to the state: it raises an error (rule R207), it completes with new result registers
(rule R8), it builds a frame without sending it (rule R126), or it issues a transaction (rule R147). -/
inductive Effect where
  | raise (e : ErrorKind)
  | complete (results : State)
  | build (f : List Byte)
  | issue (opc : Byte) (ops : List Byte) (n : BitVec 2) (kind : PendKind)

/-- The state that an effect leaves; `complete u` takes the nine result registers of 10_state.md section 4 from `u`. -/
def Effect.apply (e : Effect) (s : State) : State :=
  match e with
  | .raise k => raiseError k s
  | .complete u =>
    { s with status := 0, rval := u.rval, rb0 := u.rb0, rb1 := u.rb1, roff := u.roff, rwid := u.rwid, hit := u.hit,
             moving := u.moving, errknown := u.errknown, errunrec := u.errunrec }
  | .build f => endOk (storeFrame f s)
  | .issue opc ops n kind => issued opc ops n kind s

/-- A built frame fits `TXBUF`; an issued command has operands that fit a packet, and a response length that goes with its
kind (rules R25, R28, R71). -/
def Effect.legal : Effect → Prop
  | .raise _ => True
  | .complete _ => True
  | .build f => f.length ≤ txCap
  | .issue _ ops n kind => ops.length ≤ maxOps ∧ pendLegal ⟨kind, n⟩

/-- On `s`, whatever `PEND` holds, `r` answers what one legal effect leaves. -/
def actsAs (r : State → Result) (s : State) : Prop :=
  ∃ e : Effect, e.legal ∧ ∀ p, r (withPend p s) = .next (e.apply (withPend p s))

/-! ### The shared operations -/

theorem raise_actsAs (k : ErrorKind) (s : State) : actsAs (fun u => .next (raiseError k u)) s :=
  ⟨.raise k, trivial, fun _ => rfl⟩

theorem setRval_actsAs (v : BitVec 16) (s : State) : actsAs (fun u => .next (endOk (setRval v u))) s :=
  ⟨.complete (setRval v s), trivial, fun _ => rfl⟩

theorem setPacked_actsAs (b0 b1 : Byte) (s : State) : actsAs (fun u => .next (endOk (setPacked b0 b1 u))) s :=
  ⟨.complete (setPacked b0 b1 s), trivial, fun _ => rfl⟩

theorem setAddress_actsAs (off : BitVec 16) (wid : Byte) (s : State) :
    actsAs (fun u => .next (endOk (setAddress off wid u))) s :=
  ⟨.complete (setAddress off wid s), trivial, fun _ => rfl⟩

theorem setName_actsAs (found : Option Nat) (s : State) : actsAs (fun u => .next (endOk (setName found u))) s :=
  ⟨.complete (setName found s), trivial, fun _ => by cases found <;> rfl⟩

theorem guarded_actsAs {effect : State → State} {s : State} (check : Option ErrorKind)
    (h : actsAs (fun u => .next (effect u)) s) : actsAs (fun u => .next (guarded check effect u)) s := by
  cases check with
  | none => exact h
  | some k => exact raise_actsAs k s

theorem withParam_actsAs {effect : ParamRow → State → State} {s : State} (rows : List ParamRow) (id : Byte)
    (h : ∀ r, actsAs (fun u => .next (effect r u)) s) : actsAs (fun u => .next (withParam rows id effect u)) s := by
  unfold withParam
  cases paramOf rows id with
  | none => exact raise_actsAs _ s
  | some r => exact h r

theorem issue_actsAs (check : Option ErrorKind) (opc : Byte) (ops : List Byte) (n : BitVec 2) (kind : PendKind)
    (hops : ops.length ≤ maxOps) (hpend : pendLegal ⟨kind, n⟩) (s : State) :
    actsAs (issue check opc ops n kind) s := by
  cases check with
  | none => exact ⟨.issue opc ops n kind, ⟨hops, hpend⟩, fun _ => issue_of_fit hops _ _ _ _ _⟩
  | some k => exact ⟨.raise k, trivial, fun _ => issue_of_fit hops _ _ _ _ _⟩

/-! ### The operations -/

theorem execCodeOf_actsAs (idx : Byte) (s : State) : actsAs (execCodeOf idx) s := by
  cases hr : rowOf s.tables idx.toNat with
  | none => exact ⟨.raise .unknownParameter, trivial, fun p => by simp [execCodeOf, withPend, hr, Effect.apply]⟩
  | some r =>
    obtain ⟨e, hlegal, he⟩ := setRval_actsAs (r.value.setWidth 16) s
    exact ⟨e, hlegal, fun p => by rw [← he p]; simp [execCodeOf, withPend, hr]⟩

theorem execEncode_actsAs (opc : Byte) {ops : List Byte} (hops : ops.length ≤ maxOps) (s : State) :
    actsAs (execEncode opc ops) s :=
  ⟨.build (frameOf opc ops s), frame_length_le hops, fun _ => withOperands_of_fit hops _ _⟩

theorem issueSet_actsAs (opc ch : Byte) (a : Arg16) (s : State) : actsAs (issueSet opc ch a) s :=
  issue_actsAs (valueCheck a) opc (channelValueOps ch a) 0 .none (by decide : 3 ≤ maxOps) rfl s

theorem issueRow_actsAs (r : CmdRow) {ops : List Byte} (hops : ops.length ≤ maxOps) (s : State) :
    actsAs (issueRow r ops) s :=
  issue_actsAs none r.value ops r.nresp .raw hops trivial s

theorem exec_actsAs {i : Instr} {s t : State} (h : exec i s = .next t) : actsAs (exec i) s := by
  cases i with
  | pack16 a => exact guarded_actsAs _ (setPacked_actsAs _ _ s)
  | unpack16 b0 b1 => exact setRval_actsAs _ s
  | addrDev pid => exact withParam_actsAs s.tables.devparams pid fun r => setAddress_actsAs r.offset r.width s
  | addrServo ch fid =>
    exact guarded_actsAs (channelCheck ch s.nch) (withParam_actsAs s.tables.fields fid fun r =>
      setAddress_actsAs (zext16 (servoOffset ch.toNat r.offset.toNat)) r.width s)
  | encode opc ops => exact execEncode_actsAs opc (withOperands_next h).1 s
  | codeOf idx => exact execCodeOf_actsAs idx s
  | nameOf byte => exact setName_actsAs (indexOf s.tables byte) s
  | decErrors b0 b1 => exact ⟨.complete (decodeErrors b0 b1 s), trivial, fun _ => rfl⟩
  | xfer opc ops nresp => exact issue_actsAs none opc ops nresp .raw (withOperands_next h).1 trivial s
  | setTarget ch a => exact issueSet_actsAs opcSetTarget ch a s
  | setSpeed ch a => exact issueSet_actsAs s.tables.opcSetSpeed ch a s
  | setAcceleration ch a => exact issueSet_actsAs s.tables.opcSetAcceleration ch a s
  | getPosition ch =>
    exact issue_actsAs (channelCheck ch s.nch) s.tables.opcGetPosition [ch] 2 .position (by decide : 1 ≤ maxOps) rfl s
  | getMovingState => exact issue_actsAs none s.tables.opcGetMovingState [] 1 .moving (Nat.zero_le _) rfl s
  | getErrors => exact issue_actsAs none s.tables.opcGetErrors [] 2 .errors (Nat.zero_le _) rfl s
  | goHome => exact issue_actsAs none s.tables.opcGoHome [] 0 .none (Nat.zero_le _) rfl s
  | getScriptStatus ops => exact issueRow_actsAs s.tables.getScriptStatus (withOperands_next h).1 s
  | stopScript ops => exact issueRow_actsAs s.tables.stopScript (withOperands_next h).1 s
  | restartScriptAtSubroutine ops => exact issueRow_actsAs s.tables.restartScript (withOperands_next h).1 s
  | restartScriptAtSubroutineWithParameter ops =>
    exact issueRow_actsAs s.tables.restartScriptWithParameter (withOperands_next h).1 s

/-! ### The step -/

/-- Everything that taking a packet can do: one legal effect, the same one for every `PEND`. -/
theorem stepInput_command_next {p : Packet} {s t : State} (h : stepInput (.command p) s = .next t) :
    ∃ e : Effect, e.legal ∧ t = e.apply s ∧
      ∀ q, stepInput (.command p) (withPend q s) = .next (e.apply (withPend q s)) := by
  cases hd : decode p with
  | error k => simp [stepInput, hd] at h
  | ok i =>
    have hstep : ∀ u, stepInput (.command p) u = exec i u := fun u => by simp [stepInput, hd]
    rw [hstep] at h
    obtain ⟨e, hlegal, he⟩ := exec_actsAs h
    exact ⟨e, hlegal, Host.Outcome.next.inj (h.symm.trans (he s.pend)), fun q => (hstep _).trans (he q)⟩

/-- A step that answers a next state took nothing, or one enabled input, and what waits was waiting before (rule R70). -/
theorem step_next_took {s t : State} (h : step s = .next t) :
    (takeInput s s.inputs = none ∧ t = s) ∨
      ∃ x waiting, takeInput s s.inputs = some (x, waiting) ∧ x ∈ s.inputs ∧ (∀ y ∈ waiting, y ∈ s.inputs) ∧
        inputEnabled s x = true ∧ stepInput x { s with inputs := waiting } = .next t := by
  cases htake : takeInput s s.inputs with
  | none => exact .inl ⟨rfl, (Host.Outcome.next.inj ((step_of_none htake).symm.trans h)).symm⟩
  | some q =>
    obtain ⟨x, waiting⟩ := q
    obtain ⟨before, after, hin, rfl, hx, -⟩ := takeInput_eq_some htake
    refine .inr ⟨x, before ++ after, rfl, by simp [hin], fun y hy => ?_, hx, (step_of_some htake).symm.trans h⟩
    rw [hin]
    simp only [List.mem_append, List.mem_cons] at hy ⊢
    tauto

end Sys2Proof.Proofs.Effects
end

section
/-! PROOFS. The classes of state of rule R10: the straps and tables that no step but the release of reset changes (rules R10
to R13, R52), and `PEND`, which is dead in phase IDLE (rule R28, conflict C8). -/

namespace Sys2Proof.Proofs.StateClasses

open Sys2Proof.Machine Sys2Proof.Config Sys2Proof.Proofs.Effects

/-! ### The configuration -/

/-- The straps of a state. -/
def strapsOf (s : State) : Straps := ⟨s.variant, s.devid, s.nch⟩

/-- The straps and the tables of a state (classes (a) and (b) of rule R10). -/
def configuration (s : State) : Straps × Tables := (strapsOf s, s.tables)

theorem apply_configuration (e : Effect) (s : State) : configuration (e.apply s) = configuration s := by
  cases e <;> rfl

theorem txAnswerStep_configuration (a : TxAnswer) (s : State) : configuration (txAnswerStep a s) = configuration s := by
  obtain ⟨-, h⟩ | ⟨-, -, h⟩ | ⟨-, -, h⟩ := txAnswerStep_cases a s <;> rw [h] <;> rfl

theorem rxAnswerStep_configuration (a : RxAnswer) (s : State) : configuration (rxAnswerStep a s) = configuration s := by
  obtain ⟨e, h⟩ | ⟨bs, -, -, h⟩ := rxAnswerStep_cases a s
  · rw [h]
    rfl
  · rw [h, decodeResponse_frame]
    rfl

/-- A step keeps the configuration, or it is a release of reset, which samples the straps and keeps the tables. -/
theorem step_configuration {s t : State} (h : step s = .next t) :
    configuration t = configuration s ∨
      ∃ st, s.resetAsserted = true ∧ .resetRelease st ∈ s.inputs ∧ configuration t = (st, s.tables) := by
  obtain ⟨-, rfl⟩ | ⟨x, waiting, -, hx, -, hen, hstep⟩ := step_next_took h
  · exact .inl rfl
  · cases x with
    | command p =>
      obtain ⟨e, -, rfl, -⟩ := stepInput_command_next hstep
      exact .inl (apply_configuration e _)
    | txAnswer a =>
      obtain rfl := Host.Outcome.next.inj hstep
      exact .inl (txAnswerStep_configuration a _)
    | rxAnswer a =>
      obtain rfl := Host.Outcome.next.inj hstep
      exact .inl (rxAnswerStep_configuration a _)
    | resetAssert =>
      obtain rfl := Host.Outcome.next.inj hstep
      exact .inl rfl
    | resetRelease st =>
      obtain rfl := Host.Outcome.next.inj hstep
      exact .inr ⟨st, hen, hx, rfl⟩

/-- Settles O47: the release of reset is the one step that changes the configuration, and it keeps the tables. -/
theorem configurationIsConstant : Obligations.ConfigurationIsConstant := by
  intro s t h
  obtain hsame | ⟨st, hreset, hmem, hrelease⟩ := step_configuration h
  · simp only [configuration, strapsOf, Prod.mk.injEq, Straps.mk.injEq] at hsame
    exact ⟨hsame.2, fun _ => hsame.1⟩
  · refine ⟨congrArg Prod.snd hrelease, ?_⟩
    rintro (hlow | hnone)
    · rw [hlow] at hreset
      cases hreset
    · exact absurd hmem (hnone st)

/-! ### `PEND` in phase IDLE -/

@[simp] theorem hostView_withPend (p : Pend) (s : State) : hostView (withPend p s) = hostView s := rfl

/-- Which input is taken does not depend on `PEND`. -/
theorem takeInput_withPend (p : Pend) (s : State) (l : List Input) : takeInput (withPend p s) l = takeInput s l := by
  induction l with
  | nil => rfl
  | cons x rest ih =>
    have hx : inputEnabled (withPend p s) x = inputEnabled s x := by cases x <;> rfl
    rw [takeInput, takeInput, hx, ih]

/-- An effect carries `PEND` along, or replaces it when it issues a transaction. -/
theorem apply_withPend (e : Effect) (p : Pend) {s : State} (hs : s.phase = .idle) :
    ∃ q, e.apply (withPend p s) = withPend q (e.apply s) ∧ ((e.apply s).phase ≠ .idle → q = (e.apply s).pend) := by
  cases e with
  | raise k => exact ⟨p, rfl, fun h => absurd rfl h⟩
  | complete u => exact ⟨p, rfl, fun h => absurd hs h⟩
  | build f => exact ⟨p, rfl, fun h => absurd hs h⟩
  | issue opc ops n kind => exact ⟨⟨kind, n⟩, rfl, fun _ => rfl⟩

/-- A step from IDLE answers alike for every `PEND`, up to `PEND`, and with the same `PEND` once a transaction runs. -/
theorem step_withPend {s t : State} (p : Pend) (hs : s.phase = .idle) (h : step s = .next t) :
    ∃ q, step (withPend p s) = .next (withPend q t) ∧ (t.phase ≠ .idle → q = t.pend) := by
  obtain ⟨hnone, rfl⟩ | ⟨x, waiting, htake, -, -, hen, hstep⟩ := step_next_took h
  · exact ⟨p, step_of_none ((takeInput_withPend p t t.inputs).trans hnone), fun hne => absurd hs hne⟩
  · have hpend : step (withPend p s) = stepInput x (withPend p { s with inputs := waiting }) :=
      step_of_some ((takeInput_withPend p s s.inputs).trans htake)
    rw [hpend]
    cases x with
    | command c =>
      obtain ⟨e, -, rfl, he⟩ := stepInput_command_next hstep
      obtain ⟨q, hq, hissued⟩ := apply_withPend e p (s := { s with inputs := waiting }) hs
      exact ⟨q, by rw [he, hq], hissued⟩
    | txAnswer a => simp [inputEnabled, hs] at hen
    | rxAnswer a => simp [inputEnabled, hs] at hen
    | resetAssert =>
      obtain rfl := Host.Outcome.next.inj hstep
      exact ⟨p, rfl, fun hne => absurd hs hne⟩
    | resetRelease st =>
      obtain rfl := Host.Outcome.next.inj hstep
      exact ⟨⟨.none, 0⟩, rfl, fun hne => absurd rfl hne⟩

/-- Settles O50: the effect of the accepted packet is the same one for every `PEND`. -/
theorem pendIsDeadWhileIdle : Obligations.PendIsDeadWhileIdle := by
  intro s t p hs h
  obtain ⟨q, hstep, hissued⟩ := step_withPend p hs h
  exact ⟨withPend q t, hstep, rfl, hostView_withPend q t, hissued⟩

/-! ### The reset state -/

/-- Settles O39: every register of `State.reset` is the constant that rule R30 gives. -/
theorem resetState : Obligations.ResetState :=
  ⟨rfl, rfl, rfl, rfl, rfl, rfl, rfl, rfl, rfl, rfl, rfl, rfl, rfl, rfl, rfl, rfl, memRead_nil, memRead_nil,
    rfl, rfl, rfl, rfl⟩

end Sys2Proof.Proofs.StateClasses
end

section
/-! PROOFS. The invariant of the machine (rules R18, R25, R27, R28): it holds at reset, and each kind of step keeps it. -/

namespace Sys2Proof.Proofs.Invariant

open Sys2Proof.Machine Sys2Proof.Config Sys2Proof.Proofs.Effects

/-- In IDLE only the buffers, `TXLEN` and `STATUS` are constrained. -/
theorem inv_of_idle {s : State} (hphase : s.phase = .idle) (htx : Memory.wf txCap s.txbuf)
    (hrx : Memory.wf maxResp s.rxbuf) (hlen : s.txlen.toNat ≤ txCap) (hstatus : s.status.toNat ≤ 6) : Inv s :=
  ⟨htx, hrx, hlen, hstatus, fun h => absurd hphase h, by simp [outstanding, hphase]⟩

theorem resetWith_inv (st : Straps) (t : Tables) : Inv (State.resetWith st t) :=
  inv_of_idle rfl (Memory.wf_nil _) (Memory.wf_nil _) (Nat.zero_le _) (Nat.zero_le _)

theorem raiseError_inv {s : State} (hi : Inv s) (e : ErrorKind) : Inv (raiseError e s) := by
  obtain ⟨htx, hrx, hlen, -, -, -⟩ := hi
  exact inv_of_idle rfl htx hrx hlen (errorCode_pos_le e).2

theorem endTransaction_inv {s : State} (htx : Memory.wf txCap s.txbuf) (hrx : Memory.wf maxResp s.rxbuf)
    (hlen : s.txlen.toNat ≤ txCap) : Inv (endTransaction s) :=
  inv_of_idle rfl htx hrx hlen (Nat.zero_le _)

/-- The frame of an issued transaction is the one in `TXBUF`, and its send is the last request (rule R147). -/
theorem issued_inv {s : State} (hi : Inv s) (opc : Byte) {ops : List Byte} (hops : ops.length ≤ maxOps) {n : BitVec 2}
    {kind : PendKind} (hpend : pendLegal ⟨kind, n⟩) : Inv (issued opc ops n kind s) := by
  obtain ⟨htx, hrx, -, hstatus, -, -⟩ := hi
  have hfit : (frameOf opc ops s).length ≤ txCap := frame_length_le hops
  obtain ⟨hwf, hlen, -, hframe⟩ := storeFrame_spec htx hfit
  have hcurrent : currentFrame (issued opc ops n kind s) = frameOf opc ops s := hframe
  refine ⟨hwf, hrx, hlen.trans_le hfit, hstatus, fun _ => hpend, ?_⟩
  simp [outstanding, hcurrent]

theorem apply_inv {e : Effect} (hlegal : e.legal) {s : State} (hi : Inv s) (hphase : s.phase = .idle) :
    Inv (e.apply s) := by
  cases e with
  | raise k => exact raiseError_inv hi k
  | complete u =>
    obtain ⟨htx, hrx, hlen, -, -, -⟩ := hi
    exact inv_of_idle hphase htx hrx hlen (Nat.zero_le _)
  | build f =>
    obtain ⟨htx, hrx, -, -, -, -⟩ := hi
    obtain ⟨hwf, hlen, -, -⟩ := storeFrame_spec htx hlegal
    exact inv_of_idle hphase hwf hrx (hlen.trans_le hlegal) (Nat.zero_le _)
  | issue opc ops n kind =>
    obtain ⟨hops, hpend⟩ := hlegal
    exact issued_inv hi opc hops hpend

/-- The read request of `PEND.n` bytes goes out right behind the send that was outstanding (rule R148). -/
theorem rxRequest_inv {s : State} (hi : Inv s) (hphase : s.phase = .tx) (hn : s.pend.n ≠ 0) :
    Inv (rxRequest s.pend.n.toNat { s with phase := .rx }) := by
  obtain ⟨htx, hrx, hlen, hstatus, hpend, hout⟩ := hi
  have hlast : s.transportLog.getLast? = some (.txSend (currentFrame s)) := by simpa [outstanding, hphase] using hout
  obtain ⟨before, hlog⟩ := List.getLast?_eq_some_iff.mp hlast
  refine ⟨htx, hrx, hlen, hstatus, fun _ => hpend (by simp [hphase]), hn, before, ?_⟩
  show s.transportLog ++ [_] = _
  rw [hlog, List.append_assoc]
  rfl

theorem txAnswerStep_inv (a : TxAnswer) {s : State} (hi : Inv s) (hphase : s.phase = .tx) : Inv (txAnswerStep a s) := by
  obtain ⟨-, h⟩ | ⟨-, -, h⟩ | ⟨-, hn, h⟩ := txAnswerStep_cases a s
  · rw [h]
    exact raiseError_inv hi _
  · rw [h]
    obtain ⟨htx, hrx, hlen, -, -, -⟩ := hi
    exact endTransaction_inv htx hrx hlen
  · rw [h]
    exact rxRequest_inv hi hphase hn

theorem rxAnswerStep_inv (a : RxAnswer) {s : State} (hi : Inv s) : Inv (rxAnswerStep a s) := by
  obtain ⟨e, h⟩ | ⟨bs, -, hbs, h⟩ := rxAnswerStep_cases a s
  · rw [h]
    exact raiseError_inv hi e
  · rw [h, decodeResponse_frame]
    obtain ⟨htx, hrx, hlen, -, -, -⟩ := hi
    have hfit : bs.length ≤ maxResp := hbs ▸ Nat.le_of_lt_succ s.pend.n.isLt
    obtain ⟨hwf, -, -⟩ := storeResponse_spec hrx hfit
    exact endTransaction_inv htx hwf hlen

/-- Settles O56: a packet is taken in IDLE and a transmit answer in TX, where the lemmas of their steps apply. -/
theorem stepKeepsInv : Obligations.StepKeepsInv := by
  intro s t hi h
  obtain ⟨-, rfl⟩ | ⟨x, waiting, -, -, -, hen, hstep⟩ := step_next_took h
  · exact hi
  · have hi' : Inv { s with inputs := waiting } := hi
    cases x with
    | command p =>
      obtain ⟨e, hlegal, rfl, -⟩ := stepInput_command_next hstep
      obtain ⟨hphase, -⟩ := inputEnabled_command.mp hen
      exact apply_inv hlegal hi' hphase
    | txAnswer a =>
      obtain rfl := Host.Outcome.next.inj hstep
      obtain ⟨hphase, -⟩ := inputEnabled_txAnswer.mp hen
      exact txAnswerStep_inv a hi' hphase
    | rxAnswer a =>
      obtain rfl := Host.Outcome.next.inj hstep
      exact rxAnswerStep_inv a hi'
    | resetAssert =>
      obtain rfl := Host.Outcome.next.inj hstep
      exact hi
    | resetRelease st =>
      obtain rfl := Host.Outcome.next.inj hstep
      exact resetWith_inv st s.tables

/-- Settles O57: `State.reset` is what a release of reset with the configuration's straps leaves. -/
theorem invHoldsAtReset : Obligations.InvHoldsAtReset := resetWith_inv _ _

end Sys2Proof.Proofs.Invariant
end

section
/-! PROOFS. A failed operation keeps every result (rules R29, R207): along a run that is given answers only, either nothing but
the sequencer, the frame and `STATUS` has changed, or the operation has ended with `STATUS = 0` and the block waits. -/

namespace Sys2Proof.Proofs.Failures

open Sys2Proof.Machine Sys2Proof.Config Sys2Proof.Proofs.Effects

theorem resultsKept_inputs (s : State) (waiting : List Input) : resultsKept s { s with inputs := waiting } := rfl

theorem resultsKept_trans {s t u : State} (hst : resultsKept s t) (htu : resultsKept t u) : resultsKept s u :=
  htu.trans (congrArg (fun v : State =>
    { v with status := u.status, txbuf := u.txbuf, txlen := u.txlen, phase := u.phase, pend := u.pend,
             inputs := u.inputs, transportLog := u.transportLog }) hst)

/-- Since `s` every result is kept, or the operation has succeeded. -/
def keptOrSucceeded (s t : State) : Prop := resultsKept s t ∨ (t.phase = .idle ∧ t.status = 0)

theorem keptOrSucceeded_of_kept {s t u : State} (hst : resultsKept s t) (htu : keptOrSucceeded t u) :
    keptOrSucceeded s u :=
  htu.imp_left (resultsKept_trans hst)

/-- An answer of the transport. -/
def isAnswer : Input → Bool
  | .command _ => false
  | .txAnswer _ => true
  | .rxAnswer _ => true
  | .resetAssert => false
  | .resetRelease _ => false

/-- In IDLE the block takes no answer (rules R148, R149). -/
theorem busy_of_enabled_answer {s : State} {x : Input} (hx : isAnswer x = true) (hen : inputEnabled s x = true) :
    s.phase ≠ .idle := by
  intro hidle
  cases x with
  | txAnswer a => simp [inputEnabled, hidle] at hen
  | rxAnswer a => simp [inputEnabled, hidle] at hen
  | _ => cases hx

theorem apply_keptOrSucceeded (e : Effect) {s : State} (hphase : s.phase = .idle) : keptOrSucceeded s (e.apply s) := by
  cases e with
  | raise k => exact .inl rfl
  | complete u => exact .inr ⟨hphase, rfl⟩
  | build f => exact .inr ⟨hphase, rfl⟩
  | issue opc ops n kind => exact .inl rfl

theorem txAnswerStep_keptOrSucceeded (a : TxAnswer) (s : State) : keptOrSucceeded s (txAnswerStep a s) := by
  obtain ⟨-, h⟩ | ⟨-, -, h⟩ | ⟨-, -, h⟩ := txAnswerStep_cases a s <;> rw [h]
  · exact .inl rfl
  · exact .inr ⟨rfl, rfl⟩
  · exact .inl rfl

theorem rxAnswerStep_keptOrSucceeded (a : RxAnswer) (s : State) : keptOrSucceeded s (rxAnswerStep a s) := by
  obtain ⟨e, h⟩ | ⟨bs, -, -, h⟩ := rxAnswerStep_cases a s <;> rw [h]
  · exact .inl rfl
  · exact .inr ⟨rfl, rfl⟩

theorem apply_inputs (e : Effect) (s : State) : (e.apply s).inputs = s.inputs := by
  cases e <;> rfl

theorem txAnswerStep_inputs (a : TxAnswer) (s : State) : (txAnswerStep a s).inputs = s.inputs := by
  obtain ⟨-, h⟩ | ⟨-, -, h⟩ | ⟨-, -, h⟩ := txAnswerStep_cases a s <;> rw [h] <;> rfl

theorem rxAnswerStep_inputs (a : RxAnswer) (s : State) : (rxAnswerStep a s).inputs = s.inputs := by
  obtain ⟨e, h⟩ | ⟨bs, -, -, h⟩ := rxAnswerStep_cases a s
  · rw [h]
    rfl
  · rw [h, decodeResponse_frame]
    rfl

/-- What is kept or has succeeded up to `t` is so after one more answer: a block in IDLE takes none. -/
theorem step_keptOrSucceeded {s t u : State} (hanswers : ∀ x ∈ t.inputs, isAnswer x = true)
    (hst : keptOrSucceeded s t) (h : step t = .next u) :
    keptOrSucceeded s u ∧ ∀ x ∈ u.inputs, isAnswer x = true := by
  obtain ⟨-, rfl⟩ | ⟨x, waiting, -, hx, hwait, hen, hstep⟩ := step_next_took h
  · exact ⟨hst, hanswers⟩
  · have hrest : ∀ y ∈ waiting, isAnswer y = true := fun y hy => hanswers y (hwait y hy)
    have hbusy : t.phase ≠ .idle := busy_of_enabled_answer (hanswers x hx) hen
    have hkept : resultsKept s { t with inputs := waiting } :=
      hst.elim (fun hk => resultsKept_trans hk (resultsKept_inputs t waiting)) fun hdone => absurd hdone.1 hbusy
    cases x with
    | txAnswer a =>
      obtain rfl := Host.Outcome.next.inj hstep
      refine ⟨keptOrSucceeded_of_kept hkept (txAnswerStep_keptOrSucceeded a _), ?_⟩
      rwa [txAnswerStep_inputs]
    | rxAnswer a =>
      obtain rfl := Host.Outcome.next.inj hstep
      refine ⟨keptOrSucceeded_of_kept hkept (rxAnswerStep_keptOrSucceeded a _), ?_⟩
      rwa [rxAnswerStep_inputs]
    | _ => cases hanswers _ hx

theorem run_keptOrSucceeded {s t u : State} {k : Nat} (hanswers : ∀ x ∈ t.inputs, isAnswer x = true)
    (hst : keptOrSucceeded s t) (h : runSteps k t = .next u) : keptOrSucceeded s u := by
  induction k generalizing t with
  | zero =>
    obtain rfl := Host.Outcome.next.inj h
    exact hst
  | succ k ih =>
    obtain ⟨v, hv, hrun⟩ := run_next_cases h
    obtain ⟨hsv, hvin⟩ := step_keptOrSucceeded hanswers hst hv
    exact ih hvin hsv hrun

/-- A ready block takes the packet that stands first and leaves every result or succeeds. -/
theorem step_command_keptOrSucceeded {s t : State} {p : Packet} {rest : List Input} (hready : ready s = true)
    (hin : s.inputs = .command p :: rest) (h : step s = .next t) : keptOrSucceeded s t ∧ t.inputs = rest := by
  have hen : inputEnabled s (.command p) = true := hready
  have htake : takeInput s s.inputs = some (.command p, rest) := by simp [hin, takeInput, hen]
  rw [step_of_some htake] at h
  obtain ⟨hphase, -⟩ := inputEnabled_command.mp hen
  obtain ⟨e, -, rfl, -⟩ := stepInput_command_next h
  exact ⟨keptOrSucceeded_of_kept (resultsKept_inputs s rest) (apply_keptOrSucceeded e hphase), apply_inputs e _⟩

/-- Settles O35: with `STATUS` not 0 the operation has not succeeded, so every result is kept. -/
theorem failuresKeepEveryResult : Obligations.FailuresKeepEveryResult := by
  intro s t p a r hready hin hrun hstatus
  obtain ⟨u, hu, hrest⟩ := run_next_cases hrun
  obtain ⟨hsu, huin⟩ := step_command_keptOrSucceeded hready hin hu
  have hanswers : ∀ x ∈ u.inputs, isAnswer x = true := by simp [huin, isAnswer]
  obtain hkept | ⟨-, hzero⟩ := run_keptOrSucceeded hanswers hsu hrest
  · exact hkept
  · exact absurd hzero hstatus

end Sys2Proof.Proofs.Failures
end

section
/-! PROOFS. What the host sees while the block is busy (rule R53).  An operation leaves the block busy only by issuing its wire
command, which writes `TXBUF`, `TXLEN` and the sequencer; the step that starts the read writes nothing the host reads. -/

namespace Sys2Proof.Proofs.BusyView

open Sys2Proof.Machine Sys2Proof.Config Sys2Proof.Proofs.Effects

/-! ### The frame as the host reads it -/

theorem take_memReadSeq (m : Memory) {n k : Nat} (h : n ≤ k) : (memReadSeq m k).take n = memReadSeq m n := by
  rw [memReadSeq, ← List.map_take, List.take_range, Nat.min_eq_left h, memReadSeq]

/-- The valid part of `TXBUF` as the host reads it is the current frame (rule R25). -/
theorem hostView_take_txlen {s : State} (h : s.txlen.toNat ≤ txCap) :
    (hostView s).txbuf.take (hostView s).txlen.toNat = currentFrame s :=
  take_memReadSeq s.txbuf h

/-! ### The issue step -/

theorem hostView_issued (opc : Byte) (ops : List Byte) (n : BitVec 2) (kind : PendKind) (s : State) :
    hostView (issued opc ops n kind s) =
      { hostView s with txbuf := memReadSeq (issued opc ops n kind s).txbuf txCap,
                        txlen := (issued opc ops n kind s).txlen, ready := false, busy := true } := rfl

/-- An issued transaction leaves its frame in `TXBUF`, and past the frame the bytes that were there (rules R121, R147). -/
theorem issued_frame {s : State} (hwf : Memory.wf txCap s.txbuf) (opc : Byte) {ops : List Byte}
    (hops : ops.length ≤ maxOps) (n : BitVec 2) (kind : PendKind) :
    (issued opc ops n kind s).txlen.toNat ≤ txCap ∧ currentFrame (issued opc ops n kind s) = frameOf opc ops s ∧
      ∀ j, memRead (issued opc ops n kind s).txbuf j = (frameOf opc ops s).getD j (memRead s.txbuf j) := by
  have hfit : (frameOf opc ops s).length ≤ txCap := frame_length_le hops
  obtain ⟨-, hlen, hread, hframe⟩ := storeFrame_spec hwf hfit
  exact ⟨hlen.trans_le hfit, hframe, hread⟩

/-- An issue step that leaves the block busy has passed its check. -/
theorem issue_busy {check : Option ErrorKind} {opc : Byte} {ops : List Byte} {n : BitVec 2} {kind : PendKind}
    {s t : State} (h : issue check opc ops n kind s = .next t) (hbusy : t.phase ≠ .idle) :
    check = none ∧ ops.length ≤ maxOps ∧ t = issued opc ops n kind s := by
  obtain ⟨hops, ⟨e, -, rfl⟩ | ⟨hcheck, ht⟩⟩ := issue_next h
  · exact absurd rfl hbusy
  · exact ⟨hcheck, hops, ht⟩

/-! ### The operations -/

/-- `t` is what issuing the wire command of `i` leaves of `s`. -/
def issuesWireCommand (i : Instr) (s t : State) : Prop :=
  ∃ opc ops n kind, wireCommand s.tables i = some (opc, ops) ∧ ops.length ≤ maxOps ∧ t = issued opc ops n kind s

/-- An issue step that leaves the block busy has issued the wire command, if what passes its check is that command. -/
theorem issuesWireCommand_of_issue {i : Instr} {check : Option ErrorKind} {opc : Byte} {ops : List Byte} {n : BitVec 2}
    {kind : PendKind} {s t : State} (hcommand : check = none → wireCommand s.tables i = some (opc, ops))
    (h : issue check opc ops n kind s = .next t) (hbusy : t.phase ≠ .idle) : issuesWireCommand i s t := by
  obtain ⟨hcheck, hops, ht⟩ := issue_busy h hbusy
  exact ⟨opc, ops, n, kind, hcommand hcheck, hops, ht⟩

theorem representable_of_valueCheck {a : Arg16} (h : valueCheck a = none) : representable (operandValue a) = true :=
  representable_iff.mpr (valueCheck_eq_none.mp h)

theorem wellFormed_of_pure_next {i : Instr} {s t : State} (hpure : isPure i = true) (h : exec i s = .next t) :
    wellFormed i := by
  cases i with
  | encode opc ops => exact (withOperands_next h).1
  | pack16 | unpack16 | addrDev | addrServo | codeOf | nameOf | decErrors => trivial
  | _ => cases hpure

/-- A pure operation leaves the block in IDLE (rule R9). -/
theorem pure_next_phase {i : Instr} {s t : State} (hpure : isPure i = true) (hs : s.phase = .idle)
    (h : exec i s = .next t) : t.phase = .idle := by
  obtain ⟨u, hu, hside⟩ := Scope.exec_offTransport_of_isPure hpure (wellFormed_of_pure_next hpure h) hs
  obtain rfl := Host.Outcome.next.inj (h.symm.trans hu)
  exact (congrArg Scope.TransportSide.phase hside).trans hs

/-- An operation that leaves the block busy has issued its wire command (rules R65, R141). -/
theorem exec_busy {i : Instr} {s t : State} (hs : s.phase = .idle) (h : exec i s = .next t) (hbusy : t.phase ≠ .idle) :
    issuesWireCommand i s t := by
  cases i with
  | setTarget ch a | setSpeed ch a | setAcceleration ch a =>
    exact issuesWireCommand_of_issue (fun hcheck => if_pos (representable_of_valueCheck hcheck)) h hbusy
  | xfer | getPosition | getMovingState | getErrors | goHome | getScriptStatus | stopScript
  | restartScriptAtSubroutine | restartScriptAtSubroutineWithParameter =>
    exact issuesWireCommand_of_issue (fun _ => rfl) h hbusy
  | pack16 | unpack16 | addrDev | addrServo | encode | codeOf | nameOf | decErrors =>
    exact absurd (pure_next_phase rfl hs h) hbusy

/-! ### The start of the read -/

/-- Only an answered send takes the block from TX to RX, and the read request changes nothing that the host reads (rule
R148). -/
theorem txAnswerStep_hostView {a : TxAnswer} {s : State} (hs : s.phase = .tx) (hrx : (txAnswerStep a s).phase = .rx) :
    hostView (txAnswerStep a s) = hostView s := by
  obtain ⟨-, h⟩ | ⟨-, -, h⟩ | ⟨-, -, h⟩ := txAnswerStep_cases a s <;> rw [h] at hrx ⊢
  · cases hrx
  · cases hrx
  · simp [hostView, ready, busy, hs]

theorem step_hostView_of_read_start {s t : State} (hs : s.phase = .tx) (h : step s = .next t) (hrx : t.phase = .rx) :
    hostView t = hostView s := by
  obtain ⟨-, rfl⟩ | ⟨x, waiting, -, -, -, hen, hstep⟩ := step_next_took h
  · rfl
  · cases x with
    | command p => simp [inputEnabled_command, hs] at hen
    | txAnswer a =>
      obtain rfl := Host.Outcome.next.inj hstep
      exact txAnswerStep_hostView (s := { s with inputs := waiting }) hs hrx
    | rxAnswer a => simp [inputEnabled_rxAnswer, hs] at hen
    | resetAssert =>
      obtain rfl := Host.Outcome.next.inj hstep
      cases hs.symm.trans hrx
    | resetRelease st =>
      obtain rfl := Host.Outcome.next.inj hstep
      cases hrx

/-- Settles O49: the block is busy after an operation only if it has issued, which writes the frame and the sequencer. -/
theorem busyHostSeesTheOldResults : Obligations.BusyHostSeesTheOldResults := by
  refine ⟨fun i s t hs h hbusy => ?_, fun i s t hwf hs h hbusy => ?_, fun s t => step_hostView_of_read_start⟩
  · obtain ⟨opc, ops, n, kind, -, -, rfl⟩ := exec_busy hs h hbusy
    exact hostView_issued opc ops n kind s
  · obtain ⟨opc, ops, n, kind, hcommand, hops, rfl⟩ := exec_busy hs h hbusy
    obtain ⟨hlen, hframe, hread⟩ := issued_frame hwf opc hops n kind
    have hwire : wireFrame s.tables s.variant s.devid i = some (frameOf opc ops s) := by
      rw [wireFrame, hcommand]
      rfl
    exact ⟨frameOf opc ops s, hwire, rfl, hframe, (hostView_take_txlen hlen).trans hframe, hread⟩

end Sys2Proof.Proofs.BusyView
end

section
/-! PROOFS. The host command packet (rules R71 to R73): one equation of the decoder for each select code, and what follows for
the round trip, the unused fields and the words of the test vectors. -/

namespace Sys2Proof.Proofs.HostPacket

open Sys2Proof.Machine

/-! ### The decoder, one equation for each select code (rule R72) -/

section SelectCodes

variable {h : HeadWord} (ops : List Byte)

theorem decodeHead_pack16 (hop : (opField h).toNat = 0x0) : decodeHead h ops = .pack16 (aField h) := by
  simp only [decodeHead, hop]

theorem decodeHead_unpack16 (hop : (opField h).toNat = 0x1) :
    decodeHead h ops = .unpack16 (bField h) (argLow8 (aField h)) := by
  simp only [decodeHead, hop]

theorem decodeHead_addrDev (hop : (opField h).toNat = 0x2) : decodeHead h ops = .addrDev (bField h) := by
  simp only [decodeHead, hop]

theorem decodeHead_addrServo (hop : (opField h).toNat = 0x3) :
    decodeHead h ops = .addrServo (bField h) (argLow8 (aField h)) := by
  simp only [decodeHead, hop]

theorem decodeHead_encode (hop : (opField h).toNat = 0x4) : decodeHead h ops = .encode (bField h) ops := by
  simp only [decodeHead, hop]

theorem decodeHead_codeOf (hop : (opField h).toNat = 0x5) : decodeHead h ops = .codeOf (bField h) := by
  simp only [decodeHead, hop]

theorem decodeHead_nameOf (hop : (opField h).toNat = 0x6) : decodeHead h ops = .nameOf (bField h) := by
  simp only [decodeHead, hop]

theorem decodeHead_decErrors (hop : (opField h).toNat = 0x7) :
    decodeHead h ops = .decErrors (bField h) (argLow8 (aField h)) := by
  simp only [decodeHead, hop]

theorem decodeHead_xfer (hop : (opField h).toNat = 0x8) :
    decodeHead h ops = .xfer (bField h) ops (argLow2 (aField h)) := by
  simp only [decodeHead, hop]

theorem decodeHead_setTarget (hop : (opField h).toNat = 0x9) : decodeHead h ops = .setTarget (bField h) (aField h) := by
  simp only [decodeHead, hop]

theorem decodeHead_setSpeed (hop : (opField h).toNat = 0xA) : decodeHead h ops = .setSpeed (bField h) (aField h) := by
  simp only [decodeHead, hop]

theorem decodeHead_setAcceleration (hop : (opField h).toNat = 0xB) :
    decodeHead h ops = .setAcceleration (bField h) (aField h) := by
  simp only [decodeHead, hop]

theorem decodeHead_getPosition (hop : (opField h).toNat = 0xC) : decodeHead h ops = .getPosition (bField h) := by
  simp only [decodeHead, hop]

theorem decodeHead_getMovingState (hop : (opField h).toNat = 0xD) : decodeHead h ops = .getMovingState := by
  simp only [decodeHead, hop]

theorem decodeHead_getErrors (hop : (opField h).toNat = 0xE) : decodeHead h ops = .getErrors := by
  simp only [decodeHead, hop]

theorem decodeHead_goHome (hop : (opField h).toNat = 0xF) : decodeHead h ops = .goHome := by
  simp only [decodeHead, hop]

end SelectCodes

/-- A select code chooses what the decoder makes of every head word that carries it. -/
theorem selects_of_decodeHead {op : BitVec 4} {mk : Packet → Instr}
    (hmk : ∀ {h : HeadWord} (ops : List Byte), (opField h).toNat = op.toNat → decodeHead h ops = mk ⟨h, ops⟩) :
    selects op mk := by
  intro p hwf hop
  rw [decode_of_wf hwf, hmk p.ops (congrArg BitVec.toNat hop)]

/-- Settles O53: one equation of the decoder for each select code. -/
theorem selectCodesChooseTheOperation : Obligations.SelectCodesChooseTheOperation :=
  ⟨selects_of_decodeHead decodeHead_pack16, selects_of_decodeHead decodeHead_unpack16,
    selects_of_decodeHead decodeHead_addrDev, selects_of_decodeHead decodeHead_addrServo,
    selects_of_decodeHead decodeHead_encode, selects_of_decodeHead decodeHead_codeOf,
    selects_of_decodeHead decodeHead_nameOf, selects_of_decodeHead decodeHead_decErrors,
    selects_of_decodeHead decodeHead_xfer, selects_of_decodeHead decodeHead_setTarget,
    selects_of_decodeHead decodeHead_setSpeed, selects_of_decodeHead decodeHead_setAcceleration,
    selects_of_decodeHead decodeHead_getPosition, selects_of_decodeHead decodeHead_getMovingState,
    selects_of_decodeHead decodeHead_getErrors, selects_of_decodeHead decodeHead_goHome⟩

/-! ### The round trip -/

/-- An operation that is no pseudo-operation stands for itself (rule R76). -/
theorem expand_of_not_pseudo (t : Config.Tables) {i : Instr} (hi : isPseudo i = false) : expand t i = i := by
  cases i with
  | getScriptStatus | stopScript | restartScriptAtSubroutine | restartScriptAtSubroutineWithParameter => cases hi
  | _ => rfl

/-- The packet of a script row decodes to the XFER of that row (rule R76). -/
theorem decode_aliasPacket (r : Config.CmdRow) {ops : List Byte} (hops : operandsFit ops) :
    decode (aliasPacket r ops) = .ok (.xfer r.value ops r.nresp) := by
  rw [aliasPacket, decode_headWord _ _ _ hops, decodeHead_xfer _ (by simp)]
  simp

theorem decode_encode (t : Config.Tables) {i : Instr} (hi : wellFormed i) : decode (encode t i) = .ok (expand t i) := by
  cases i with
  | pack16 | unpack16 | addrDev | addrServo | codeOf | nameOf | decErrors | setTarget | setSpeed | setAcceleration
  | getPosition | getMovingState | getErrors | goHome =>
    refine (decode_headWord_nil _ _ _).trans ?_
    simp [decodeHead, expand]
  | encode opc ops | xfer opc ops nresp =>
    refine (decode_headWord _ _ _ hi).trans ?_
    simp [decodeHead, expand]
  | getScriptStatus | stopScript | restartScriptAtSubroutine | restartScriptAtSubroutineWithParameter =>
    exact decode_aliasPacket _ hi

/-- Settles O51: the fields of the packet are those the encoder put there, and the select code chooses the operation. -/
theorem decodeInvertsEncode : Obligations.DecodeInvertsEncode := by
  intro t i hi
  refine ⟨decode_encode t hi, fun hpseudo => ?_⟩
  rw [decode_encode t hi, expand_of_not_pseudo t hpseudo]

/-! ### Every packet is an operation (rule R73) -/

/-- The four bits of `OPLEN` count no more than 15 operand bytes (rule R71). -/
theorem operandsFit_of_packetWellFormed {p : Packet} (hp : packetWellFormed p) : operandsFit p.ops :=
  hp.trans_le (Nat.le_of_lt_succ (p.head.extractLsb' 24 4).isLt)

theorem decodeHead_wellFormed (h : HeadWord) {ops : List Byte} (hops : operandsFit ops) : wellFormed (decodeHead h ops) := by
  unfold decodeHead
  split
  any_goals exact trivial
  all_goals exact hops

/-- Settles O52: a head word is read through its select code and the fields of that code's row of rule R72 alone. -/
theorem noCommandIsIllegal : Obligations.NoCommandIsIllegal := by
  refine ⟨fun p hp => ⟨_, decode_of_wf hp, decodeHead_wellFormed _ (operandsFit_of_packetWellFormed hp)⟩,
    fun h h' ops ops' hop => ?_⟩
  simp only [List.mem_cons, List.not_mem_nil, or_false, decodeHead, ← hop]
  refine ⟨?pack16, ?twoBytes, ?oneByte, ?encode, ?xfer, ?channelValue, ?bare⟩
  case pack16 =>
    intro hcode ha
    simp only [hcode, ha]
  case twoBytes =>
    rintro (hcode | hcode | hcode) hb ha <;> simp only [hcode, hb, ha]
  case oneByte =>
    rintro (hcode | hcode | hcode | hcode) hb <;> simp only [hcode, hb]
  case encode =>
    intro hcode hb
    simp only [hcode, hb]
  case xfer =>
    intro hcode hb ha
    simp only [hcode, hb, ha]
  case channelValue =>
    rintro (hcode | hcode | hcode) hb ha <;> simp only [hcode, hb, ha]
  case bare =>
    rintro (hcode | hcode | hcode) <;> simp only [hcode]

/-- Settles O54: nine closed words. -/
theorem headWordsDecode : Obligations.HeadWordsDecode := by
  unfold Obligations.HeadWordsDecode
  decide

end Sys2Proof.Proofs.HostPacket
end

section
/-! PROOFS. The wire frames (rules R60 to R66): their bytes, the row of the code table that each wire command belongs to, and
the way back of the model's receiver (log entry 4). -/

namespace Sys2Proof.Proofs.WireFrames

open Sys2Proof.Machine Sys2Proof.Config

/-! ### Packed16, there and back (rules R106 to R108) -/

theorem packLow_toNat (v : Nat) : (packLow v).toNat = v % 128 := by
  rw [packLow, BitVec.toNat_ofNat, Nat.and_two_pow_sub_one_eq_mod v 7]
  omega

theorem packHigh_toNat (v : Nat) : (packHigh v).toNat = v / 128 % 128 := by
  rw [packHigh, BitVec.toNat_ofNat, Nat.shiftRight_eq_div_pow, Nat.and_two_pow_sub_one_eq_mod _ 7]
  omega

theorem canonical_pack (v : Nat) : canonical (packLow v) (packHigh v) = true := by
  have hlow : v % 128 < 128 := Nat.mod_lt _ (by decide)
  have hhigh : v / 128 % 128 < 128 := Nat.mod_lt _ (by decide)
  simp [canonical, packLow_toNat, packHigh_toNat, hlow, hhigh]

theorem unpack16_pack {v : Nat} (hv : v ≤ p16Max) : unpack16 (packLow v) (packHigh v) = v := by
  have hv' : v ≤ 16383 := hv
  have hlow : v % 128 < 2 ^ 7 := Nat.mod_lt _ (by decide)
  rw [unpack16, packLow_toNat, packHigh_toNat, Nat.or_comm, ← Nat.shiftLeft_add_eq_or_of_lt hlow, Nat.shiftLeft_eq]
  omega

/-- A representable operand comes back from its two bytes (rule R64). -/
theorem valueOfPair_pack {a : Arg16} (ha : representable (operandValue a) = true) :
    valueOfPair (packLow (operandValue a).toNat) (packHigh (operandValue a).toNat) = some a := by
  obtain ⟨hpos, hle⟩ := representable_iff.mp ha
  have hback : BitVec.ofNat 16 (operandValue a).toNat = a := by
    apply BitVec.eq_of_toInt_eq
    rw [BitVec.toInt_ofNat']
    simp only [operandValue] at hpos hle ⊢
    rw [Int.toNat_of_nonneg hpos]
    exact Int.bmod_eq_of_le (by omega) (by omega)
  rw [valueOfPair, if_pos (canonical_pack _), unpack16_pack (Int.toNat_le.mpr hle), hback]

/-! ### The bytes of a frame -/

/-- Settles O9: both formats by definition, their lengths by `frame_length`. -/
theorem framesHaveTheTwoFormats : Obligations.FramesHaveTheTwoFormats := by
  intro devid opc ops
  have hcompact : (frame .compact devid opc ops).length = 1 + ops.length := frame_length _ _ _ _
  have haddressed : (frame .addressed devid opc ops).length = 3 + ops.length := frame_length _ _ _ _
  exact ⟨rfl, rfl, hcompact, haddressed, fun hops => by omega⟩

theorem and_mask7_toNat_lt (b : Byte) : (b &&& mask7).toNat < 0x80 := by
  rw [BitVec.toNat_and]
  exact Nat.lt_succ_of_le Nat.and_le_right

/-- A frame that is put on the wire is the frame of the operation's wire command. -/
theorem wireFrame_eq_some {t : Tables} {v : Variant} {devid : Byte} {i : Instr} {f : List Byte} :
    wireFrame t v devid i = some f ↔ ∃ opc ops, wireCommand t i = some (opc, ops) ∧ frame v devid opc ops = f := by
  simp [wireFrame, Option.map_eq_some_iff]

/-- The wire command that the three SET operations share, up to their opcode (rules R64, R65). -/
def setCommand (opc ch : Byte) (a : Arg16) : Option (Byte × List Byte) :=
  if representable (operandValue a) then some (opc, channelValueOps ch a) else none

theorem wireCommand_setTarget (t : Tables) (ch : Byte) (a : Arg16) :
    wireCommand t (.setTarget ch a) = setCommand opcSetTarget ch a := rfl

theorem wireCommand_setSpeed (t : Tables) (ch : Byte) (a : Arg16) :
    wireCommand t (.setSpeed ch a) = setCommand t.opcSetSpeed ch a := rfl

theorem wireCommand_setAcceleration (t : Tables) (ch : Byte) (a : Arg16) :
    wireCommand t (.setAcceleration ch a) = setCommand t.opcSetAcceleration ch a := rfl

theorem setCommand_eq_some {opc ch : Byte} {a : Arg16} {opc' : Byte} {ops : List Byte}
    (h : setCommand opc ch a = some (opc', ops)) :
    representable (operandValue a) = true ∧ opc = opc' ∧ channelValueOps ch a = ops := by
  obtain ⟨ha, hcommand⟩ := Option.ite_none_right_eq_some.mp h
  obtain ⟨hopc, hops⟩ := Prod.mk.inj (Option.some.inj hcommand)
  exact ⟨ha, hopc, hops⟩

/-- Byte 0 of an Addressed SET frame is the lead byte and byte 3 the channel; the others are 7-bit values (rules R62, R64). -/
theorem addressed_set_frame_lt {devid opc ch : Byte} {a : Arg16} {j : Nat} {b : Byte}
    (hj : (frame .addressed devid opc (channelValueOps ch a))[j]? = some b) (hlead : j ≠ 0) (hch : j ≠ 3) :
    b.toNat < 0x80 := by
  match j, hj with
  | 0, _ => exact absurd rfl hlead
  | 1, hj =>
    obtain rfl := Option.some.inj hj
    exact and_mask7_toNat_lt devid
  | 2, hj =>
    obtain rfl := Option.some.inj hj
    exact and_mask7_toNat_lt opc
  | 3, _ => exact absurd rfl hch
  | 4, hj =>
    obtain rfl := Option.some.inj hj
    exact packLow_toNat _ ▸ Nat.mod_lt _ (by decide)
  | 5, hj =>
    obtain rfl := Option.some.inj hj
    exact packHigh_toNat _ ▸ Nat.mod_lt _ (by decide)
  | _ + 6, hj => cases hj

/-- A byte of an Addressed frame whose wire command is that of a SET operation. -/
theorem addressed_setCommand_lt {t : Tables} {devid opc ch : Byte} {a : Arg16} {i : Instr} {f : List Byte} {j : Nat}
    {b : Byte} (hi : wireCommand t i = setCommand opc ch a) (hf : wireFrame t .addressed devid i = some f)
    (hj : f[j]? = some b) (hlead : j ≠ 0) (hch : j ≠ 3) : b.toNat < 0x80 := by
  obtain ⟨opc', ops, hcommand, rfl⟩ := wireFrame_eq_some.mp hf
  obtain ⟨-, -, rfl⟩ := setCommand_eq_some (hi.symm.trans hcommand)
  exact addressed_set_frame_lt hj hlead hch

/-- Settles O37: the three SET operations share one wire command. -/
theorem setFramesKeepBitSevenClear : Obligations.SetFramesKeepBitSevenClear := by
  rintro t devid ch a f j b (hf | hf | hf) hj hlead hch
  · exact addressed_setCommand_lt (wireCommand_setTarget t ch a) hf hj hlead hch
  · exact addressed_setCommand_lt (wireCommand_setSpeed t ch a) hf hj hlead hch
  · exact addressed_setCommand_lt (wireCommand_setAcceleration t ch a) hf hj hlead hch

/-! ### The row of a wire command, and the way back -/

/-- What a receiver compares of a row in each format: the full opcode value, or the masked one (rules R61, R62). -/
def rowKey (v : Variant) (r : CmdRow) : Byte :=
  match v with
  | .compact => r.value
  | .addressed => r.value &&& mask7

/-- The first row with a key is the only one where the keys differ. -/
theorem findIdx?_of_nodup {α β : Type} [BEq β] [LawfulBEq β] {key : α → β} {l : List α} (hl : (l.map key).Nodup)
    {k : Nat} {x : α} (hx : l[k]? = some x) : l.findIdx? (fun y => key y == key x) = some k := by
  obtain ⟨hk, rfl⟩ := List.getElem?_eq_some_iff.mp hx
  refine List.findIdx?_eq_some_iff_getElem.mpr ⟨hk, beq_self_eq_true _, fun j hj => ?_⟩
  have hne : (l.map key)[j]'(by simp; omega) ≠ (l.map key)[k]'(by simpa using hk) :=
    fun heq => absurd ((List.Nodup.getElem_inj_iff hl).mp heq) (Nat.ne_of_lt hj)
  simpa using hne

/-- A frame of a row is cut into that row and the operand bytes, where no other row has its key (rules R61, R62, R66). -/
theorem splitFrame_frame {t : Tables} {v : Variant} (hdistinct : ((cmdtab t).map (rowKey v)).Nodup) {k : Nat} {r : CmdRow}
    (hr : (cmdtab t)[k]? = some r) (devid : Byte) (ops : List Byte) :
    splitFrame t v (frame v devid r.value ops) = some (k, ops) := by
  have hfind := findIdx?_of_nodup hdistinct hr
  cases v with
  | compact => exact congrArg (Option.map fun i => (i, ops)) hfind
  | addressed =>
    have hmask : (devid &&& mask7) &&& mask7 = devid &&& mask7 := by rw [BitVec.and_assoc, BitVec.and_self]
    exact (if_pos ⟨rfl, hmask⟩).trans (congrArg (Option.map fun i => (i, ops)) hfind)

/-- A wire command is a row of the code table with the operand bytes that row is read back with (rule R65). -/
def isRowCommand (t : Tables) (i : Instr) (opc : Byte) (ops : List Byte) : Prop :=
  ∃ k r, (cmdtab t)[k]? = some r ∧ r.value = opc ∧ wireRowInstr k ops = some i

/-- A SET operation's command is the row that carries its opcode, if that row is read as `mk`. -/
theorem setCommand_isRowCommand {t : Tables} {mk : Byte → Arg16 → Instr} {k : Nat} {r : CmdRow} {ch : Byte} {a : Arg16}
    {opc : Byte} {ops : List Byte} (hr : (cmdtab t)[k]? = some r)
    (hread : ∀ lsb msb, wireRowInstr k [ch, lsb, msb] = (valueOfPair lsb msb).map (mk ch))
    (h : setCommand r.value ch a = some (opc, ops)) : isRowCommand t (mk ch a) opc ops := by
  obtain ⟨ha, rfl, rfl⟩ := setCommand_eq_some h
  exact ⟨k, r, hr, rfl, (hread _ _).trans (congrArg (Option.map (mk ch)) (valueOfPair_pack ha))⟩

/-- The wire command of every operation but XFER is a row of the code table. -/
theorem wireCommand_isRowCommand {t : Tables} {i : Instr} {opc : Byte} {ops : List Byte}
    (hxfer : ∀ opc ops n, i ≠ .xfer opc ops n) (h : wireCommand t i = some (opc, ops)) : isRowCommand t i opc ops := by
  cases i with
  | setTarget ch a => exact setCommand_isRowCommand (k := 0) rfl (fun _ _ => rfl) h
  | setSpeed ch a => exact setCommand_isRowCommand (k := 1) rfl (fun _ _ => rfl) h
  | setAcceleration ch a => exact setCommand_isRowCommand (k := 2) rfl (fun _ _ => rfl) h
  | xfer opc ops n => exact absurd rfl (hxfer opc ops n)
  | pack16 | unpack16 | addrDev | addrServo | encode | codeOf | nameOf | decErrors => cases h
  | getPosition => cases h; exact ⟨3, _, rfl, rfl, rfl⟩
  | getMovingState => cases h; exact ⟨4, _, rfl, rfl, rfl⟩
  | getErrors => cases h; exact ⟨5, _, rfl, rfl, rfl⟩
  | goHome => cases h; exact ⟨6, _, rfl, rfl, rfl⟩
  | getScriptStatus => cases h; exact ⟨7, _, rfl, rfl, rfl⟩
  | stopScript => cases h; exact ⟨8, _, rfl, rfl, rfl⟩
  | restartScriptAtSubroutine => cases h; exact ⟨9, _, rfl, rfl, rfl⟩
  | restartScriptAtSubroutineWithParameter => cases h; exact ⟨10, _, rfl, rfl, rfl⟩

theorem decodeFrame_wireFrame {t : Tables} {v : Variant} (hdistinct : ((cmdtab t).map (rowKey v)).Nodup) {devid : Byte}
    {i : Instr} {f : List Byte} (hxfer : ∀ opc ops n, i ≠ .xfer opc ops n) (h : wireFrame t v devid i = some f) :
    decodeFrame t v f = some i := by
  obtain ⟨opc, ops, hcommand, rfl⟩ := wireFrame_eq_some.mp h
  obtain ⟨k, r, hr, rfl, hread⟩ := wireCommand_isRowCommand hxfer hcommand
  rw [decodeFrame, splitFrame_frame hdistinct hr]
  exact hread

/-- Settles O55: the two formats differ only in what of a row the receiver compares. -/
theorem wireFramesCarryTheirCommand : Obligations.WireFramesCarryTheirCommand :=
  fun _ _ _ _ hxfer =>
    ⟨fun hdistinct => decodeFrame_wireFrame (v := .compact) hdistinct hxfer,
      fun hdistinct => decodeFrame_wireFrame (v := .addressed) hdistinct hxfer⟩

end Sys2Proof.Proofs.WireFrames
end

section
/-! PROOFS. What an accepted command puts on the wire (rules R65, R76, R141): the script operations issue their own row, an
operand list that no packet carries stops, and the one request ever made is the send of the operation's wire frame. -/

namespace Sys2Proof.Proofs.AcceptedCommands

open Sys2Proof.Machine Sys2Proof.Config Sys2Proof.Proofs.BusyView

/-! ### The script operations -/

/-- The record of an issue step is what `issued` leaves (rule R147). -/
theorem issued_leavesIssue {s : State} (hwf : Memory.wf txCap s.txbuf) (opc : Byte) {ops : List Byte}
    (hops : ops.length ≤ maxOps) (n : BitVec 2) (kind : PendKind) :
    leavesIssue s (issued opc ops n kind s) (frameOf opc ops s) kind n := by
  obtain ⟨-, hlen, hread, -⟩ := storeFrame_spec hwf (frame_length_le hops)
  exact ⟨issued_eq opc ops n kind s, hlen, hread⟩

/-- An operation that runs as `issueRow` of its row issues that row (rule R76). -/
theorem issuesScriptRow_of_issueRow {mk : List Byte → Instr} {row : Tables → CmdRow}
    (h : ∀ ops s, exec (mk ops) s = issueRow (row s.tables) ops s) : issuesScriptRow mk row := by
  intro ops s hops hwf
  exact ⟨_, (h ops s).trans (issue_of_fit hops _ _ _ _ s), issued_leavesIssue hwf _ hops _ _⟩

/-- An operation runs as what it expands to: a script operation as the XFER of its row (rule R76). -/
theorem exec_expand (i : Instr) (s : State) : exec i s = exec (expand s.tables i) s := by
  cases i <;> rfl

/-- Settles O23: each script operation runs as `issueRow` of its own row. -/
theorem scriptOperationsIssue : Obligations.ScriptOperationsIssue :=
  ⟨issuesScriptRow_of_issueRow fun _ _ => rfl, issuesScriptRow_of_issueRow fun _ _ => rfl,
    issuesScriptRow_of_issueRow fun _ _ => rfl, issuesScriptRow_of_issueRow fun _ _ => rfl, exec_expand⟩

/-! ### Operand lists that no packet carries -/

/-- Settles O12: the six operations give their operand list to `withOperands`, which stops on more than 15 bytes. -/
theorem overlongOperandListsStop : Obligations.OverlongOperandListsStop := by
  intro opc ops n s hlong i hi
  have hover : ¬ ops.length ≤ maxOps := Nat.not_le_of_lt hlong
  simp only [List.mem_cons, List.not_mem_nil, or_false] at hi
  obtain rfl | rfl | rfl | rfl | rfl | rfl := hi
  · exact (withOperands_of_overflow hover _ s : execEncode opc ops s = _)
  all_goals exact withOperands_of_overflow hover _ s

/-! ### What is sent -/

theorem guarded_transportLog (check : Option ErrorKind) {effect : State → State} {s : State}
    (h : (effect s).transportLog = s.transportLog) : (guarded check effect s).transportLog = s.transportLog := by
  obtain ⟨e, -, hr⟩ | ⟨-, he⟩ := guarded_cases check effect s
  · rw [hr, raiseError_transportLog]
  · rw [he, h]

theorem withParam_transportLog (rows : List ParamRow) (id : Byte) {effect : ParamRow → State → State} {s : State}
    (h : ∀ r, (effect r s).transportLog = s.transportLog) :
    (withParam rows id effect s).transportLog = s.transportLog := by
  cases hp : paramOf rows id with
  | none => rw [withParam_of_none hp, raiseError_transportLog]
  | some r => rw [withParam_of_some hp, h]

/-- A pure operation makes no request, in any phase (rules R9, R90). -/
theorem pure_next_transportLog {i : Instr} {s t : State} (hpure : isPure i = true) (h : exec i s = .next t) :
    t.transportLog = s.transportLog := by
  cases i with
  | pack16 a =>
    obtain rfl := Host.Outcome.next.inj h
    exact guarded_transportLog _ rfl
  | addrDev pid =>
    obtain rfl := Host.Outcome.next.inj h
    exact withParam_transportLog _ _ fun _ => rfl
  | addrServo ch fid =>
    obtain rfl := Host.Outcome.next.inj h
    exact guarded_transportLog _ (withParam_transportLog _ _ fun _ => rfl)
  | encode opc ops =>
    obtain ⟨-, rfl⟩ := withOperands_next h
    rfl
  | codeOf idx =>
    obtain rfl := Host.Outcome.next.inj h
    cases rowOf s.tables idx.toNat <;> rfl
  | nameOf byte =>
    obtain rfl := Host.Outcome.next.inj h
    cases indexOf s.tables byte <;> rfl
  | unpack16 | decErrors =>
    obtain rfl := Host.Outcome.next.inj h
    rfl
  | _ => cases hpure

/-- An issue step that has made a request has issued the wire command, if what passes its check is that command. -/
theorem issuesWireCommand_of_sent {i : Instr} {check : Option ErrorKind} {opc : Byte} {ops : List Byte} {n : BitVec 2}
    {kind : PendKind} {s t : State} (hcommand : check = none → wireCommand s.tables i = some (opc, ops))
    (h : issue check opc ops n kind s = .next t) (hsent : t.transportLog ≠ s.transportLog) : issuesWireCommand i s t := by
  obtain ⟨hops, ⟨e, -, rfl⟩ | ⟨hcheck, rfl⟩⟩ := issue_next h
  · exact absurd (raiseError_transportLog s e) hsent
  · exact ⟨opc, ops, n, kind, hcommand hcheck, hops, rfl⟩

/-- An operation that has made a request has issued its wire command, in any phase. -/
theorem exec_sent {i : Instr} {s t : State} (h : exec i s = .next t) (hsent : t.transportLog ≠ s.transportLog) :
    issuesWireCommand i s t := by
  cases i with
  | setTarget ch a | setSpeed ch a | setAcceleration ch a =>
    exact issuesWireCommand_of_sent (fun hcheck => if_pos (representable_of_valueCheck hcheck)) h hsent
  | xfer | getPosition | getMovingState | getErrors | goHome | getScriptStatus | stopScript
  | restartScriptAtSubroutine | restartScriptAtSubroutineWithParameter =>
    exact issuesWireCommand_of_sent (fun _ => rfl) h hsent
  | pack16 | unpack16 | addrDev | addrServo | encode | codeOf | nameOf | decErrors =>
    exact absurd (pure_next_transportLog rfl h) hsent

/-- Settles O36: the request of an issued wire command is the send of its frame. -/
theorem operationsSendTheirWireFrame : Obligations.OperationsSendTheirWireFrame := by
  intro i s t h hsent
  obtain ⟨opc, ops, n, kind, hcommand, -, rfl⟩ := exec_sent h hsent
  have hwire : wireFrame s.tables s.variant s.devid i = some (frameOf opc ops s) :=
    WireFrames.wireFrame_eq_some.mpr ⟨opc, ops, hcommand, rfl⟩
  exact ⟨_, hwire, issued_transportLog opc ops n kind s⟩

end Sys2Proof.Proofs.AcceptedCommands
end

section
/-! PROOFS. The command port (rules R70, R145): which waiting command a step takes, and what waits on. -/

namespace Sys2Proof.Proofs.CommandPort

open Sys2Proof.Machine Sys2Proof.Proofs.Effects Sys2Proof.Proofs.Failures

theorem commandsIn_append (xs ys : List Input) : commandsIn (xs ++ ys) = commandsIn xs ++ commandsIn ys := by
  induction xs with
  | nil => rfl
  | cons x rest ih => cases x <;> simp [commandsIn, ih]

/-- A ready block takes every command, so none stands among inputs that it does not take. -/
theorem commandsIn_eq_nil {s : State} (hready : ready s = true) {xs : List Input}
    (hxs : ∀ x ∈ xs, inputEnabled s x = false) : commandsIn xs = [] := by
  induction xs with
  | nil => rfl
  | cons x rest ih =>
    have hrest := ih fun y hy => hxs y (List.mem_cons_of_mem _ hy)
    cases x with
    | command p => exact absurd (hready.symm.trans (hxs _ List.mem_cons_self)) (by decide)
    | txAnswer | rxAnswer | resetAssert | resetRelease => exact hrest

/-- Taking an input adds none and drops none of those that wait. -/
theorem stepInput_inputs {x : Input} {s t : State} (h : stepInput x s = .next t) : t.inputs = s.inputs := by
  cases x with
  | command p =>
    obtain ⟨e, -, rfl, -⟩ := stepInput_command_next h
    exact apply_inputs e s
  | txAnswer a =>
    obtain rfl := Host.Outcome.next.inj h
    exact txAnswerStep_inputs a s
  | rxAnswer a =>
    obtain rfl := Host.Outcome.next.inj h
    exact rxAnswerStep_inputs a s
  | resetAssert | resetRelease =>
    obtain rfl := Host.Outcome.next.inj h
    rfl

/-- A step leaves the waiting commands as they were, or the block was ready and has taken the first of them. -/
theorem step_commandsIn {s t : State} (h : step s = .next t) :
    commandsIn t.inputs = commandsIn s.inputs ∨
      ready s = true ∧ ∃ p, commandsIn s.inputs = p :: commandsIn t.inputs := by
  obtain ⟨-, rfl⟩ | ⟨x, waiting, htake, -, -, hen, hstep⟩ := step_next_took h
  · exact .inl rfl
  · obtain ⟨before, after, hin, rfl, -, hbefore⟩ := takeInput_eq_some htake
    rw [stepInput_inputs hstep, hin, commandsIn_append, commandsIn_append]
    cases x with
    | command p => exact .inr ⟨hen, p, by simp [commandsIn_eq_nil hen hbefore, commandsIn]⟩
    | txAnswer | rxAnswer | resetAssert | resetRelease => exact .inl rfl

/-- Settles O43: only a ready block takes a command. -/
theorem commandsWaitWhileBusy : Obligations.CommandsWaitWhileBusy := by
  intro s t hbusy h
  obtain hsame | ⟨hready, -⟩ := step_commandsIn h
  · exact hsame
  · exact absurd (hready.symm.trans hbusy) (by decide)

/-- Settles O44. -/
theorem commandsAreTakenInOrder : Obligations.CommandsAreTakenInOrder :=
  fun _ _ h => (step_commandsIn h).imp_right And.right

/-- Settles O45: with no input enabled none is taken. -/
theorem blockWaitsForItsInput : Obligations.BlockWaitsForItsInput :=
  fun _ hnone => step_of_none (takeInput_eq_none.mpr hnone)

/-- Settles O46: the packet is taken past the inputs that wait before it. -/
theorem stepRunsTheDecodedOperation : Obligations.StepRunsTheDecodedOperation := by
  intro s before after p i hready hin hbefore hdecode
  have htake : takeInput s s.inputs = some (.command p, before ++ after) := by
    rw [hin]
    exact takeInput_append hbefore (x := .command p) hready after
  rw [step_of_some htake]
  simp only [stepInput, hdecode]

end Sys2Proof.Proofs.CommandPort
end

section
/-! PROOFS. The parameter registry (40_registry.md): one equation for each outcome of ADDR_DEV and of ADDR_SERVO. -/

namespace Sys2Proof.Proofs.Registry

open Sys2Proof.Machine Sys2Proof.Config Sys2Proof.Proofs.HostPacket

/-! ### The channel and the address of a field (rules R92, R95, R198) -/

theorem channelCheck_of_le {ch nch : Byte} (h : nch.toNat ≤ ch.toNat) :
    channelCheck ch nch = some .channelOutOfRange :=
  (channelCheck_cases ch nch).resolve_left fun hnone => Nat.not_lt.mpr h (channelCheck_eq_none.mp hnone)

/-- A channel below `NCH` is at most 254, so with an offset that fits, the sum stays below 2^16 (rule R95). -/
theorem servoOffset_lt {ch nch : Byte} {off : BitVec 16} (hch : ch.toNat < nch.toNat) (hoff : off.toNat ≤ 63219) :
    servoOffset ch.toNat off.toNat < 65536 := by
  have hnch : nch.toNat < 256 := nch.isLt
  simp only [servoOffset, chStride, chBase]
  omega

/-! ### ADDR_DEV (rule R91) -/

section AddrDev

variable {pid : Byte} {s : State}

theorem exec_addrDev_of_row {r : ParamRow} (hrow : paramOf s.tables.devparams pid = some r) :
    exec (.addrDev pid) s = .next (endOk (setAddress r.offset r.width s)) :=
  congrArg Host.Outcome.next (withParam_of_some hrow _ s)

theorem exec_addrDev_of_unknown (hrow : paramOf s.tables.devparams pid = none) :
    exec (.addrDev pid) s = .next (raiseError .unknownParameter s) :=
  congrArg Host.Outcome.next (withParam_of_none hrow _ s)

end AddrDev

/-- Settles O7: in a partial function the look-up finds the row there is, and none only where there is none. -/
theorem addrDevCompletes : Obligations.AddrDevCompletes := by
  refine ⟨selects_of_decodeHead decodeHead_addrDev, fun pid s ⟨hids, _⟩ => ⟨?tabulated, fun hnone => ?unknown⟩⟩
  case tabulated =>
    rintro r hr rfl
    exact exec_addrDev_of_row (paramOf_of_mem hids hr)
  case unknown => exact answersUpToPend_of_eq (exec_addrDev_of_unknown (paramOf_eq_none.mpr hnone))

/-! ### ADDR_SERVO (rules R93, R94) -/

section AddrServo

variable {ch fid : Byte} {s : State}

/-- With a valid channel ADDR_SERVO is the look-up of its field. -/
theorem exec_addrServo_of_channel (hch : ch.toNat < s.nch.toNat) :
    exec (.addrServo ch fid) s = .next (withParam s.tables.fields fid
      (fun r s => endOk (setAddress (zext16 (servoOffset ch.toNat r.offset.toNat)) r.width s)) s) := by
  change execAddrServo ch fid s = _
  rw [execAddrServo, channelCheck_eq_none.mpr hch, guarded_none]

theorem exec_addrServo_of_row {r : ParamRow} (hch : ch.toNat < s.nch.toNat)
    (hrow : paramOf s.tables.fields fid = some r) :
    exec (.addrServo ch fid) s =
      .next (endOk (setAddress (zext16 (servoOffset ch.toNat r.offset.toNat)) r.width s)) := by
  rw [exec_addrServo_of_channel hch, withParam_of_some hrow]

theorem exec_addrServo_of_unknown (hch : ch.toNat < s.nch.toNat) (hrow : paramOf s.tables.fields fid = none) :
    exec (.addrServo ch fid) s = .next (raiseError .unknownParameter s) := by
  rw [exec_addrServo_of_channel hch, withParam_of_none hrow]

/-- A channel from `NCH` up is refused before the field is looked at (rule R94). -/
theorem exec_addrServo_of_badChannel (hch : s.nch.toNat ≤ ch.toNat) :
    exec (.addrServo ch fid) s = .next (raiseError .channelOutOfRange s) := by
  change execAddrServo ch fid s = _
  rw [execAddrServo, channelCheck_of_le hch, guarded_some]

end AddrServo

/-- Settles O8: the channel decides first, then the look-up; the sum is exact by `servoOffset_lt`. -/
theorem addrServoCompletes : Obligations.AddrServoCompletes := by
  refine ⟨selects_of_decodeHead decodeHead_addrServo, fun ch fid s ⟨hids, _⟩ hfit =>
    ⟨?tabulated, fun hch hnone => ?unknown, fun hch => ?badChannel⟩⟩
  case tabulated =>
    rintro r hr hch rfl
    exact ⟨_, exec_addrServo_of_row hch (paramOf_of_mem hids hr), rfl, zext16_toNat (servoOffset_lt hch (hfit r hr))⟩
  case unknown => exact answersUpToPend_of_eq (exec_addrServo_of_unknown hch (paramOf_eq_none.mpr hnone))
  case badChannel => exact answersUpToPend_of_eq (exec_addrServo_of_badChannel hch)

end Sys2Proof.Proofs.Registry
end

section
/-! PROOFS. The 7-bit packing family (41_packing.md): Packed16 as arithmetic on the two bytes, the range test on the bits of
the operand, and one equation for each outcome of PACK16 and of UNPACK16. -/

namespace Sys2Proof.Proofs.Packing

open Sys2Proof.Machine Sys2Proof.Proofs.HostPacket Sys2Proof.Proofs.WireFrames

/-! ### Packed16 (rules R105, R106, R108) -/

theorem canonical_iff {b0 b1 : Byte} : canonical b0 b1 = true ↔ b0.toNat < 0x80 ∧ b1.toNat < 0x80 := by
  simp [canonical]

/-- The pairs that `pack16` makes are canonical (rule R106). -/
theorem canonical_of_pack16_eq {v : Nat} {b0 b1 : Byte} (h : pack16 v = [b0, b1]) : canonical b0 b1 = true := by
  obtain ⟨rfl, hrest⟩ := List.cons.inj h
  obtain ⟨rfl, -⟩ := List.cons.inj hrest
  exact canonical_pack v

/-- With bit 7 of byte 0 clear the two bytes do not overlap, and the `|` is a sum (rule R108). -/
theorem unpack16_eq_add {b0 b1 : Byte} (h0 : b0.toNat < 0x80) : unpack16 b0 b1 = 128 * b1.toNat + b0.toNat := by
  have hlow : b0.toNat < 2 ^ 7 := h0
  rw [unpack16, Nat.or_comm, ← Nat.shiftLeft_add_eq_or_of_lt hlow, Nat.shiftLeft_eq, Nat.mul_comm]

theorem unpack16_le_of_canonical {b0 b1 : Byte} (h : canonical b0 b1 = true) : unpack16 b0 b1 ≤ 16383 := by
  obtain ⟨h0, h1⟩ := canonical_iff.mp h
  rw [unpack16_eq_add h0]
  omega

/-- Byte 1 reaches bit 14 and no further (rule R110). -/
theorem unpack16_le (b0 b1 : Byte) : unpack16 b0 b1 ≤ 32767 := by
  have hlow : b0.toNat < 2 ^ 15 := by omega
  have hhigh : b1.toNat <<< 7 < 2 ^ 15 := by
    rw [Nat.shiftLeft_eq]
    omega
  exact Nat.le_of_lt_succ (Nat.or_lt_two_pow hlow hhigh)

/-- Bit 7 is the one bit that both bytes reach (rule R108). -/
theorem unpack16_testBit_seven (b0 b1 : Byte) : (unpack16 b0 b1).testBit 7 = (b0.getLsbD 7 || b1.getLsbD 0) := by
  rw [unpack16, Nat.testBit_or, Nat.testBit_shiftLeft]
  rfl

/-- The second direction of the round trip (rule R109). -/
theorem pack16_unpack16 {b0 b1 : Byte} (h : canonical b0 b1 = true) : pack16 (unpack16 b0 b1) = [b0, b1] := by
  obtain ⟨h0, h1⟩ := canonical_iff.mp h
  have hlow : packLow (unpack16 b0 b1) = b0 := by
    apply BitVec.eq_of_toNat_eq
    rw [packLow_toNat, unpack16_eq_add h0]
    omega
  have hhigh : packHigh (unpack16 b0 b1) = b1 := by
    apply BitVec.eq_of_toNat_eq
    rw [packHigh_toNat, unpack16_eq_add h0]
    omega
  rw [pack16, hlow, hhigh]

/-- Settles O1: the two bytes are `v % 128` and `v / 128 % 128`. -/
theorem packGivesLowAndHighSevenBits : Obligations.PackGivesLowAndHighSevenBits := by
  refine ⟨fun v _ => ?_, fun v => ?_⟩
  · obtain ⟨hlow, hhigh⟩ := canonical_iff.mp (canonical_pack v)
    refine ⟨packLow v, packHigh v, rfl, ?_, ?_, hlow, hhigh⟩
    · rw [packLow_toNat, Nat.and_two_pow_sub_one_eq_mod v 7]
    · rw [packHigh_toNat, Nat.and_two_pow_sub_one_eq_mod _ 7, Nat.shiftRight_eq_div_pow]
  · rw [representable_iff]
    omega

/-- Settles O2: a pair that is not canonical is no result of `pack16`, so it fails the second direction. -/
theorem unpackInvertsPack : Obligations.UnpackInvertsPack := by
  refine ⟨fun v hv => ⟨_, _, rfl, unpack16_pack hv⟩, fun b0 b1 h => ⟨unpack16_le_of_canonical h, pack16_unpack16 h⟩,
    fun b0 b1 h => .inr fun hpack => ?_⟩
  exact absurd ((canonical_of_pack16_eq hpack).symm.trans h) (by decide)

/-- Settles O3: the formula by definition, and three closed pairs. -/
theorem unpackUsesEveryBit : Obligations.UnpackUsesEveryBit :=
  ⟨fun _ _ => rfl, fun _ _ => unpack16_le_of_canonical, unpack16_le, unpack16_testBit_seven, by decide, by decide,
    by decide⟩

/-! ### The range test on the bits of the operand (rules R107, R153) -/

/-- Two's complement: the 14-bit range is the lowest quarter of the bit patterns. -/
theorem fits14_iff_toNat_lt {a : Arg16} : fits14 a ↔ a.toNat < 2 ^ 14 := by
  rw [fits14, BitVec.toInt_eq_toNat_cond]
  split <;> omega

theorem fits14_iff_bits {a : Arg16} : fits14 a ↔ a.getLsbD 15 = false ∧ a.getLsbD 14 = false := by
  rw [fits14_iff_toNat_lt, BitVec.getLsbD, BitVec.getLsbD, Nat.testBit_eq_decide_div_mod_eq,
    Nat.testBit_eq_decide_div_mod_eq, decide_eq_false_iff_not, decide_eq_false_iff_not]
  omega

theorem valueCheck_of_not_fits14 {a : Arg16} (ha : ¬ fits14 a) : valueCheck a = some .valueOutOfRange :=
  (valueCheck_cases a).resolve_left fun hnone => ha (valueCheck_eq_none.mp hnone)

/-- The check fails exactly outside the range, with one error kind. -/
theorem valueCheck_eq_some {a : Arg16} : valueCheck a = some .valueOutOfRange ↔ ¬ fits14 a := by
  refine ⟨fun hsome ha => ?_, valueCheck_of_not_fits14⟩
  exact absurd ((valueCheck_eq_none.mpr ha).symm.trans hsome) (by decide)

/-- Settles O4: the model's test is `fits14`, which is the test on the two bits. -/
theorem rangeTestIsABitTest : Obligations.RangeTestIsABitTest := by
  intro a
  refine ⟨representable_iff.trans fits14_iff_bits, valueCheck_eq_none.trans fits14_iff_bits, ?_⟩
  rw [valueCheck_eq_some, fits14_iff_bits, not_and_or, Bool.not_eq_false, Bool.not_eq_false]

/-! ### PACK16 (rule R107) -/

theorem operandValue_toNat {a : Arg16} (ha : fits14 a) : (operandValue a).toNat = a.toNat := by
  have hlt := fits14_iff_toNat_lt.mp ha
  rw [operandValue, BitVec.toInt_eq_toNat_of_lt (by omega), Int.toNat_natCast]

/-- On an operand the low half of Packed16 is the field `A[6:0]`. -/
theorem packLow_operand (a : Arg16) : packLow a.toNat = lowSeven a := by
  apply BitVec.eq_of_toNat_eq
  rw [packLow_toNat, lowSeven, BitVec.toNat_setWidth, BitVec.extractLsb'_toNat]
  omega

/-- On an operand the high half of Packed16 is the field `A[13:7]`. -/
theorem packHigh_operand (a : Arg16) : packHigh a.toNat = highSeven a := by
  apply BitVec.eq_of_toNat_eq
  rw [packHigh_toNat, highSeven, BitVec.toNat_setWidth, BitVec.extractLsb'_toNat, Nat.shiftRight_eq_div_pow]
  omega

theorem exec_pack16_of_fits {a : Arg16} (ha : fits14 a) (s : State) :
    exec (.pack16 a) s = .next (endOk (setPacked (lowSeven a) (highSeven a) s)) := by
  change execPack16 a s = _
  rw [execPack16, valueCheck_eq_none.mpr ha, operandValue_toNat ha, packLow_operand, packHigh_operand, guarded_none]

theorem exec_pack16_of_not_fits {a : Arg16} (ha : ¬ fits14 a) (s : State) :
    exec (.pack16 a) s = .next (raiseError .valueOutOfRange s) := by
  change execPack16 a s = _
  rw [execPack16, valueCheck_of_not_fits14 ha, guarded_some]

/-- Settles O5: the value check decides, and in range the two bytes are fields of the operand. -/
theorem pack16Completes : Obligations.Pack16Completes :=
  ⟨selects_of_decodeHead decodeHead_pack16, fun _ s =>
    ⟨fun ha => exec_pack16_of_fits ha s, fun ha => answersUpToPend_of_eq (exec_pack16_of_not_fits ha s)⟩⟩

/-! ### UNPACK16 (rule R110) -/

theorem zext16_unpack16_toNat (b0 b1 : Byte) : (zext16 (unpack16 b0 b1)).toNat = unpack16 b0 b1 :=
  zext16_toNat ((unpack16_le b0 b1).trans_lt (by decide))

theorem exec_unpack16 (b0 b1 : Byte) (s : State) :
    exec (.unpack16 b0 b1) s = .next (endOk (setRval (zext16 (unpack16 b0 b1)) s)) := rfl

/-- Settles O6: the result is below 2^15, so its zero extension is exact. -/
theorem unpack16Completes : Obligations.Unpack16Completes := by
  refine ⟨selects_of_decodeHead decodeHead_unpack16, fun b0 b1 s =>
    ⟨_, exec_unpack16 b0 b1 s, rfl, zext16_unpack16_toNat b0 b1, ?_⟩⟩
  exact (zext16_unpack16_toNat b0 b1).trans_le (unpack16_le b0 b1)

end Sys2Proof.Proofs.Packing
end

section
/-! PROOFS. The command framer and the code table (42_framing.md): when two frames are equal, what ENCODE leaves, and the
look-ups of the code table in both directions, each inverse to the other where the opcode values differ (rule R15). -/

namespace Sys2Proof.Proofs.Framing

open Sys2Proof.Machine Sys2Proof.Config Sys2Proof.Proofs.HostPacket Sys2Proof.Proofs.WireFrames

/-! ### Equal frames (rules R124, R125) -/

theorem frame_compact_inj {devid opc opc' : Byte} {ops ops' : List Byte} :
    frame .compact devid opc ops = frame .compact devid opc' ops' ↔ opc = opc' ∧ ops = ops' := List.cons_eq_cons

/-- The first two bytes of an Addressed frame do not depend on the command, so its third byte and its operands decide. -/
theorem frame_addressed_inj {devid opc opc' : Byte} {ops ops' : List Byte} :
    frame .addressed devid opc ops = frame .addressed devid opc' ops' ↔ opc &&& mask7 = opc' &&& mask7 ∧ ops = ops' := by
  simp [frame, framePrefix]

/-- `0x84` and `0x04` differ in bit 7 only, which the Addressed format drops (rule R125). -/
theorem frame_addressed_clears_bit_seven (devid : Byte) (ops : List Byte) :
    frame .addressed devid 0x84 ops = frame .addressed devid 0x04 ops := frame_addressed_inj.mpr ⟨by decide, rfl⟩

/-- Settles O10: each format is its first bytes and then the operands, and two opcodes that agree below bit 7 share them in
the Addressed format. -/
theorem framesIdentifyTheirCommand : Obligations.FramesIdentifyTheirCommand := by
  intro devid opc opc' ops ops'
  have hbytes : ∃ b1 b2 : Byte, (frame .addressed devid opc ops)[1]? = some b1 ∧
      (frame .addressed devid opc ops)[2]? = some b2 ∧ b1.toNat < 0x80 ∧ b2.toNat < 0x80 :=
    ⟨devid &&& mask7, opc &&& mask7, rfl, rfl, and_mask7_toNat_lt devid, and_mask7_toNat_lt opc⟩
  exact ⟨frame_compact_inj, frame_addressed_inj, rfl, rfl, hbytes, 0x84, 0x04, by decide,
    frame_addressed_clears_bit_seven devid⟩

/-! ### ENCODE (rule R126) -/

theorem exec_encode_of_fit (opc : Byte) {ops : List Byte} (hops : ops.length ≤ maxOps) (s : State) :
    exec (.encode opc ops) s = .next (endOk (storeFrame (frameOf opc ops s) s)) := by
  change execEncode opc ops s = _
  rw [execEncode, withOperands_of_fit hops]

/-- Settles O11: ENCODE stores the frame, which fits `TXBUF`, and nothing else. -/
theorem encodeCompletes : Obligations.EncodeCompletes := by
  refine ⟨selects_of_decodeHead decodeHead_encode, fun opc ops s hops hwf => ?_⟩
  obtain ⟨-, hlen, hread, -⟩ := storeFrame_spec (f := frameOf opc ops s) hwf (frame_length_le hops)
  exact ⟨_, exec_encode_of_fit opc hops s, rfl, hlen, hread⟩

/-! ### The code table in both directions (rules R15, R128) -/

theorem cmdtab_length (t : Tables) : (cmdtab t).length = 11 := rfl

theorem rowOf_eq_none {t : Tables} {idx : Nat} : rowOf t idx = none ↔ 10 < idx := by
  rw [rowOf, List.getElem?_eq_none_iff, cmdtab_length]
  omega

theorem exists_rowOf {t : Tables} {idx : Nat} (hidx : idx ≤ 10) : ∃ r, rowOf t idx = some r :=
  Option.ne_none_iff_exists'.mp fun hnone => Nat.not_lt.mpr hidx (rowOf_eq_none.mp hnone)

/-- Where the opcode values differ, the value of a row names that row. -/
theorem indexOf_of_rowOf {t : Tables} (hdistinct : opcodesDistinct t) {idx : Nat} {r : CmdRow} (hrow : rowOf t idx = some r) :
    indexOf t r.value = some idx := findIdx?_of_nodup hdistinct hrow

theorem indexOf_eq_none {t : Tables} {byte : Byte} : indexOf t byte = none ↔ ∀ r ∈ cmdtab t, r.value ≠ byte := by
  simp [indexOf, List.findIdx?_eq_none_iff]

/-! ### CODE_OF (rule R130) -/

section CodeOf

variable {idx : Byte} {s : State}

theorem exec_codeOf_of_row {r : CmdRow} (hrow : rowOf s.tables idx.toNat = some r) :
    exec (.codeOf idx) s = .next (endOk (setRval (r.value.setWidth 16) s)) := by
  change execCodeOf idx s = _
  rw [execCodeOf, hrow]

theorem exec_codeOf_of_unknown (hrow : rowOf s.tables idx.toNat = none) :
    exec (.codeOf idx) s = .next (raiseError .unknownParameter s) := by
  change execCodeOf idx s = _
  rw [execCodeOf, hrow]

end CodeOf

/-- Settles O13: an index has a row up to 10 and none above. -/
theorem codeOfCompletes : Obligations.CodeOfCompletes := by
  refine ⟨selects_of_decodeHead decodeHead_codeOf, fun idx s =>
    ⟨fun hidx => ?tabulated, fun hzero => ?setTarget, fun hidx => ?unknown⟩⟩
  case tabulated =>
    obtain ⟨r, hrow⟩ := exists_rowOf hidx
    exact ⟨r, hrow, exec_codeOf_of_row hrow⟩
  case setTarget =>
    subst hzero
    exact exec_codeOf_of_row (r := ⟨opcSetTarget, 3, 0⟩) rfl
  case unknown => exact answersUpToPend_of_eq (exec_codeOf_of_unknown (rowOf_eq_none.mpr hidx))

/-! ### NAME_OF (rule R131) -/

section NameOf

variable {byte : Byte} {s : State}

theorem exec_nameOf_of_index {i : Nat} (hindex : indexOf s.tables byte = some i) :
    exec (.nameOf byte) s = .next { s with hit := true, rb0 := BitVec.ofNat 8 i, status := 0 } := by
  change execNameOf byte s = _
  rw [execNameOf, hindex]
  rfl

theorem exec_nameOf_of_noRow (hindex : indexOf s.tables byte = none) :
    exec (.nameOf byte) s = .next { s with hit := false, status := 0 } := by
  change execNameOf byte s = _
  rw [execNameOf, hindex]
  rfl

end NameOf

/-- Settles O14: the look-up by value finds the one row with the byte, and none only where there is none. -/
theorem nameOfCompletes : Obligations.NameOfCompletes := by
  refine ⟨selects_of_decodeHead decodeHead_nameOf, fun byte s hdistinct => ⟨?tabulated, fun hnone => ?noRow⟩⟩
  case tabulated =>
    rintro i r hrow rfl
    exact exec_nameOf_of_index (indexOf_of_rowOf hdistinct hrow)
  case noRow => exact exec_nameOf_of_noRow (indexOf_eq_none.mpr hnone)

/-! ### The law of the code table (V-CODE) -/

/-- Settles O15: `RVAL[7:0]` is the row's opcode byte again, and that byte names the row. -/
theorem nameOfInvertsCodeOf : Obligations.NameOfInvertsCodeOf := by
  intro idx s hdistinct hidx
  obtain ⟨r, hrow⟩ := exists_rowOf (t := s.tables) hidx
  have hbyte : (r.value.setWidth 16).extractLsb' 0 8 = r.value := argLow8_setWidth r.value
  have hindex : indexOf s.tables ((r.value.setWidth 16).extractLsb' 0 8) = some idx.toNat := by
    rw [hbyte]
    exact indexOf_of_rowOf hdistinct hrow
  have hback : BitVec.ofNat 8 idx.toNat = idx := by simp
  refine ⟨_, _, exec_codeOf_of_row hrow, exec_nameOf_of_index hindex, ?_⟩
  rw [hback]
  rfl

end Sys2Proof.Proofs.Framing
end

section
/-! PROOFS. The issue steps (rules R141, R147, R153 to R161): one equation for each outcome of each operation, and the
record that an issue step leaves. -/

namespace Sys2Proof.Proofs.IssueSteps

open Sys2Proof.Machine Sys2Proof.Config
open Sys2Proof.Proofs.Packing Sys2Proof.Proofs.Registry Sys2Proof.Proofs.AcceptedCommands

/-! ### The issue step (rule R147) -/

/-- An outcome that is an issued command leaves the record of an issue step. -/
theorem leavesIssue_of_issued {r : Result} {opc : Byte} {ops : List Byte} {n : BitVec 2} {kind : PendKind} {s : State}
    (hops : ops.length ≤ maxOps) (hwf : Memory.wf txCap s.txbuf) (hr : r = .next (issued opc ops n kind s)) :
    ∃ t, r = .next t ∧ leavesIssue s t (frame s.variant s.devid opc ops) kind n :=
  ⟨_, hr, issued_leavesIssue hwf opc hops n kind⟩

/-- Settles O18: the check decides between `raiseError` and `issued`. -/
theorem issueStep : Obligations.IssueStep := fun opc _ n kind s hops hwf =>
  ⟨fun e => answersUpToPend_of_eq (issue_of_fit hops (some e) opc n kind s),
    leavesIssue_of_issued hops hwf (issue_of_fit hops none opc n kind s)⟩

/-! ### The SET operations (rules R153, R155 to R157) -/

/-- In range the operand bytes are the channel and two fields of the operand (rule R64). -/
theorem channelValueOps_of_fits {a : Arg16} (ha : fits14 a) (ch : Byte) :
    channelValueOps ch a = [ch, lowSeven a, highSeven a] := by
  rw [channelValueOps, pack16, operandValue_toNat ha, packLow_operand, packHigh_operand]

theorem issueSet_of_fits {a : Arg16} (ha : fits14 a) (opc ch : Byte) (s : State) :
    issueSet opc ch a s = .next (issued opc [ch, lowSeven a, highSeven a] 0 .none s) := by
  rw [issueSet, valueCheck_eq_none.mpr ha, channelValueOps_of_fits ha]
  exact issue_of_fit (ops := [_, _, _]) (by decide : 3 ≤ maxOps) none opc 0 .none s

theorem issueSet_of_not_fits {a : Arg16} (ha : ¬ fits14 a) (opc ch : Byte) (s : State) :
    issueSet opc ch a s = .next (raiseError .valueOutOfRange s) := by
  rw [issueSet, valueCheck_of_not_fits14 ha]
  exact issue_of_fit (ops := channelValueOps ch a) (by decide : 3 ≤ maxOps) (some .valueOutOfRange) opc 0 .none s

/-- An operation that runs as `issueSet` of its opcode issues the channel and the value. -/
theorem issuesChannelValue_of_issueSet {mk : Byte → Arg16 → Instr} {opc : Tables → Byte}
    (h : ∀ ch a s, exec (mk ch a) s = issueSet (opc s.tables) ch a s) : issuesChannelValue mk opc := by
  intro ch a s hwf
  rw [h]
  exact ⟨fun ha => leavesIssue_of_issued (by decide : 3 ≤ maxOps) hwf (issueSet_of_fits ha _ ch s),
    fun ha => answersUpToPend_of_eq (issueSet_of_not_fits ha _ ch s)⟩

/-- Settles O19: the three operations run as `issueSet`. -/
theorem setOperationsIssue : Obligations.SetOperationsIssue :=
  ⟨issuesChannelValue_of_issueSet fun _ _ _ => rfl, issuesChannelValue_of_issueSet fun _ _ _ => rfl,
    issuesChannelValue_of_issueSet fun _ _ _ => rfl⟩

/-! ### GET_POSITION (rule R158) -/

theorem exec_getPosition_of_channel {ch : Byte} {s : State} (hch : ch.toNat < s.nch.toNat) :
    exec (.getPosition ch) s = .next (issued s.tables.opcGetPosition [ch] 2 .position s) := by
  change execGetPosition ch s = _
  rw [execGetPosition, channelCheck_eq_none.mpr hch]
  exact issue_of_fit (ops := [ch]) (by decide : 1 ≤ maxOps) none _ 2 .position s

theorem exec_getPosition_of_badChannel {ch : Byte} {s : State} (hch : s.nch.toNat ≤ ch.toNat) :
    exec (.getPosition ch) s = .next (raiseError .channelOutOfRange s) := by
  change execGetPosition ch s = _
  rw [execGetPosition, channelCheck_of_le hch]
  exact issue_of_fit (ops := [ch]) (by decide : 1 ≤ maxOps) (some .channelOutOfRange) _ 2 .position s

/-- Settles O20: the channel check decides. -/
theorem getPositionIssues : Obligations.GetPositionIssues := fun _ _ hwf =>
  ⟨fun hch => leavesIssue_of_issued (by decide : 1 ≤ maxOps) hwf (exec_getPosition_of_channel hch),
    fun hch => answersUpToPend_of_eq (exec_getPosition_of_badChannel hch)⟩

/-! ### The operations without operands, and XFER (rules R154, R159 to R161) -/

theorem exec_getMovingState (s : State) :
    exec .getMovingState s = .next (issued s.tables.opcGetMovingState [] 1 .moving s) :=
  issue_of_fit (ops := []) (Nat.zero_le _) none _ 1 .moving s

theorem exec_getErrors (s : State) : exec .getErrors s = .next (issued s.tables.opcGetErrors [] 2 .errors s) :=
  issue_of_fit (ops := []) (Nat.zero_le _) none _ 2 .errors s

theorem exec_goHome (s : State) : exec .goHome s = .next (issued s.tables.opcGoHome [] 0 .none s) :=
  issue_of_fit (ops := []) (Nat.zero_le _) none _ 0 .none s

theorem exec_xfer_of_fit (opc : Byte) {ops : List Byte} (hops : ops.length ≤ maxOps) (n : BitVec 2) (s : State) :
    exec (.xfer opc ops n) s = .next (issued opc ops n .raw s) := issue_of_fit hops none opc n .raw s

/-- Settles O21: each of the three has no check, so it issues. -/
theorem bareOpcodesIssue : Obligations.BareOpcodesIssue :=
  ⟨fun s hwf => leavesIssue_of_issued (Nat.zero_le _) hwf (exec_getMovingState s),
    fun s hwf => leavesIssue_of_issued (Nat.zero_le _) hwf (exec_getErrors s),
    fun s hwf => leavesIssue_of_issued (Nat.zero_le _) hwf (exec_goHome s)⟩

/-- Settles O22: XFER has no check either. -/
theorem xferIssues : Obligations.XferIssues := fun opc _ n s hops hwf =>
  leavesIssue_of_issued hops hwf (exec_xfer_of_fit opc hops n s)

end Sys2Proof.Proofs.IssueSteps
end

section
/-! PROOFS. The two answers of the transport as steps of the machine (rules R148 to R150), and what each kind of response
leaves in the result registers (rules R181 to R183). -/

namespace Sys2Proof.Proofs.AnswerSteps

open Sys2Proof.Machine Sys2Proof.Config Sys2Proof.Proofs.Packing

/-! ### The first input is taken -/

/-- An enabled input that stands first is taken. -/
theorem step_of_enabled {s : State} {x : Input} {rest : List Input} (hin : s.inputs = x :: rest)
    (hen : inputEnabled s x = true) : step s = stepInput x { s with inputs := rest } := by
  refine step_of_some ?_
  rw [hin]
  exact takeInput_append (before := []) (by simp) hen rest

theorem step_txAnswer {s : State} {a : TxAnswer} {rest : List Input} (hphase : s.phase = .tx)
    (hreset : s.resetAsserted = false) (hin : s.inputs = .txAnswer a :: rest) :
    step s = .next (txAnswerStep a { s with inputs := rest }) :=
  step_of_enabled hin (inputEnabled_txAnswer.mpr ⟨hphase, hreset⟩)

theorem step_rxAnswer {s : State} {a : RxAnswer} {rest : List Input} (hphase : s.phase = .rx)
    (hreset : s.resetAsserted = false) (hin : s.inputs = .rxAnswer a :: rest) :
    step s = .next (rxAnswerStep a { s with inputs := rest }) :=
  step_of_enabled hin (inputEnabled_rxAnswer.mpr ⟨hphase, hreset⟩)

/-! ### The transmit answer (rule R148) -/

section TransmitAnswer

variable {s : State} {rest : List Input}

/-- A command without a response is over when its frame is sent. -/
theorem step_txOk_of_zero (hphase : s.phase = .tx) (hreset : s.resetAsserted = false)
    (hin : s.inputs = .txAnswer .ok :: rest) (hn : s.pend.n = 0) :
    step s = .next (endTransaction { s with inputs := rest, rxlen := 0 }) :=
  (step_txAnswer hphase hreset hin).trans (congrArg Host.Outcome.next (if_pos hn))

/-- The other commands go on with the read of their response. -/
theorem step_txOk_of_ne_zero (hphase : s.phase = .tx) (hreset : s.resetAsserted = false)
    (hin : s.inputs = .txAnswer .ok :: rest) (hn : s.pend.n ≠ 0) :
    step s = .next (rxRequest s.pend.n.toNat { s with inputs := rest, phase := .rx }) :=
  (step_txAnswer hphase hreset hin).trans (congrArg Host.Outcome.next (if_neg hn))

end TransmitAnswer

/-- Settles O24: one equation for each of the three cases. -/
theorem transmitAnswerStep : Obligations.TransmitAnswerStep := fun _ _ hphase hreset =>
  ⟨fun hin => answersUpToPend_of_eq (step_txAnswer hphase hreset hin),
    fun hin hn => answersUpToPend_of_eq (step_txOk_of_zero hphase hreset hin hn),
    step_txOk_of_ne_zero hphase hreset⟩

/-! ### The receive answer (rules R149, R150) -/

section ReceiveAnswer

variable {s : State} {rest : List Input} {bs : List Byte}

/-- Only an answer of exactly `PEND.n` bytes is stored and decoded. -/
theorem step_rxOk_of_complete (hphase : s.phase = .rx) (hreset : s.resetAsserted = false)
    (hin : s.inputs = .rxAnswer (.ok bs) :: rest) (hlen : bs.length = s.pend.n.toNat) :
    step s = .next (endTransaction (decodeResponse s.pend.kind (storeResponse bs { s with inputs := rest }))) :=
  (step_rxAnswer hphase hreset hin).trans (congrArg Host.Outcome.next (if_pos hlen))

theorem step_rxOk_of_incomplete (hphase : s.phase = .rx) (hreset : s.resetAsserted = false)
    (hin : s.inputs = .rxAnswer (.ok bs) :: rest) (hlen : bs.length ≠ s.pend.n.toNat) :
    step s = .next (raiseError .protocolError { s with inputs := rest }) :=
  (step_rxAnswer hphase hreset hin).trans (congrArg Host.Outcome.next (if_neg hlen))

end ReceiveAnswer

/-- Settles O25: each of the three answers raises its error. -/
theorem receiveFailuresKeepNothing : Obligations.ReceiveFailuresKeepNothing := fun _ _ hphase hreset =>
  ⟨fun hin => answersUpToPend_of_eq (step_rxAnswer hphase hreset hin),
    fun hin => answersUpToPend_of_eq (step_rxAnswer hphase hreset hin),
    fun _ hin hlen => answersUpToPend_of_eq (step_rxOk_of_incomplete hphase hreset hin hlen)⟩

/-! ### The decoders on a stored response (rules R181 to R183) -/

/-- No response is longer than `RXBUF` (rules R6, R28). -/
theorem toNat_le_maxResp (n : BitVec 2) : n.toNat ≤ maxResp := Nat.le_of_lt_succ n.isLt

/-- `RXLEN` after a response of `PEND.n` bytes. -/
theorem ofNat_length_eq {n : BitVec 2} {bs : List Byte} (hlen : bs.length = n.toNat) : BitVec.ofNat 2 bs.length = n := by
  rw [hlen, BitVec.ofNat_toNat, BitVec.setWidth_eq]

/-- `RXBUF` after a response of `PEND.n` bytes: the response in front, the old bytes past it. -/
theorem memRead_storeResponse {s : State} {bs : List Byte} (hwf : Memory.wf maxResp s.rxbuf)
    (hbs : bs.length ≤ maxResp) (i : Nat) : memRead (storeResponse bs s).rxbuf i = bs.getD i (memRead s.rxbuf i) := by
  obtain ⟨-, -, hread⟩ := storeResponse_spec hwf hbs
  exact hread i

theorem decodeResponse_position {s : State} (hwf : Memory.wf maxResp s.rxbuf) (b0 b1 : Byte) :
    decodeResponse .position (storeResponse [b0, b1] s) =
      setRval (zext16 (unpack16 b0 b1)) (storeResponse [b0, b1] s) := by
  have hread := memRead_storeResponse (bs := [b0, b1]) hwf (by decide : 2 ≤ maxResp)
  rw [decodeResponse, decodePosition, hread 0, hread 1]
  rfl

theorem decodeResponse_moving {s : State} (hwf : Memory.wf maxResp s.rxbuf) (b0 : Byte) :
    decodeResponse .moving (storeResponse [b0] s) =
      setMoving (b0.setWidth 16) (movingFlag b0) (storeResponse [b0] s) := by
  rw [decodeResponse, decodeMoving, memRead_storeResponse (bs := [b0]) hwf (by decide : 1 ≤ maxResp)]
  rfl

theorem decodeResponse_errors {s : State} (hwf : Memory.wf maxResp s.rxbuf) (b0 b1 : Byte) :
    decodeResponse .errors (storeResponse [b0, b1] s) =
      setErrors (errorWord s.tables.errShift b0 b1) (storeResponse [b0, b1] s) := by
  have hread := memRead_storeResponse (bs := [b0, b1]) hwf (by decide : 2 ≤ maxResp)
  rw [decodeResponse, decodeErrors, hread 0, hread 1]
  rfl

theorem movingWord_toNat (b0 : Byte) : (b0.setWidth 16).toNat = b0.toNat :=
  BitVec.toNat_setWidth_of_le (by decide)

theorem movingFlag_iff {b0 : Byte} : movingFlag b0 = true ↔ b0 ≠ 0 := decide_eq_true_iff

/-- Shifted by 7 or by 8, byte 1 stays inside 16 bits, so the mask of rule R183 cuts nothing off. -/
theorem errorWord_toNat (sh : ErrShift) (b0 b1 : Byte) :
    (errorWord sh b0 b1).toNat = b0.toNat ||| (b1.toNat <<< errShiftAmount sh) := by
  have hlow : b0.toNat < 2 ^ 16 := by omega
  have hhigh : b1.toNat <<< errShiftAmount sh < 2 ^ 16 := by
    rw [Nat.shiftLeft_eq]
    cases sh <;> simp only [errShiftAmount] <;> omega
  have hword := Nat.or_lt_two_pow hlow hhigh
  rw [errorWord, BitVec.toNat_ofNat, Nat.and_two_pow_sub_one_of_lt_two_pow (n := 16) hword, Nat.mod_eq_of_lt hword]

/-! ### A complete response (rule R149) -/

/-- Settles O26: the decoder of the kind runs on the stored response, and a legal `PEND` gives the response its length. -/
theorem receivedResponseIsDecoded : Obligations.ReceivedResponseIsDecoded := by
  intro s bs rest hphase hreset hwf hlegal hin hlen
  have hfit : bs.length ≤ maxResp := hlen.trans_le (toNat_le_maxResp _)
  have hwf' : Memory.wf maxResp { s with inputs := rest }.rxbuf := hwf
  refine ⟨_, step_rxOk_of_complete hphase hreset hin hlen, ?written,
    ?rxbuf, ?undecoded, fun hkind => ?position, fun hkind => ?moving, fun hkind => ?errors⟩
  case written =>
    rw [decodeResponse_frame, ← ofNat_length_eq hlen]
    rfl
  case rxbuf =>
    rw [decodeResponse_frame]
    exact memRead_storeResponse hwf hfit
  case undecoded =>
    rintro (hkind | hkind) <;> rw [hkind] <;> exact ⟨rfl, rfl, rfl, rfl⟩
  case position =>
    have hn : s.pend.n = 2 := by simpa [pendLegal, hkind] using hlegal
    obtain ⟨b0, b1, rfl⟩ := List.length_eq_two.mp (hlen.trans (congrArg BitVec.toNat hn))
    rw [hkind, decodeResponse_position hwf']
    exact ⟨b0, b1, rfl, zext16_unpack16_toNat b0 b1, rfl, rfl, rfl⟩
  case moving =>
    have hn : s.pend.n = 1 := by simpa [pendLegal, hkind] using hlegal
    obtain ⟨b0, rfl⟩ := List.length_eq_one_iff.mp (hlen.trans (congrArg BitVec.toNat hn))
    rw [hkind, decodeResponse_moving hwf']
    exact ⟨b0, rfl, movingWord_toNat b0, movingFlag_iff, rfl, rfl⟩
  case errors =>
    have hn : s.pend.n = 2 := by simpa [pendLegal, hkind] using hlegal
    obtain ⟨b0, b1, rfl⟩ := List.length_eq_two.mp (hlen.trans (congrArg BitVec.toNat hn))
    rw [hkind, decodeResponse_errors hwf']
    exact ⟨b0, b1, rfl, errorWord_toNat _ b0 b1, rfl, rfl, rfl⟩

end Sys2Proof.Proofs.AnswerSteps
end

section
/-! PROOFS. Whole transactions from the command port to their end (rules R147 to R149), where the transport answers `ok`.  A
command without a response is over after two steps, the others after three; the decoder of the kind says which result
registers the third step writes. -/

namespace Sys2Proof.Proofs.Transactions

open Sys2Proof.Machine Sys2Proof.Config Sys2Proof.Proofs.Packing Sys2Proof.Proofs.BusyView
open Sys2Proof.Proofs.WireFrames Sys2Proof.Proofs.HostPacket Sys2Proof.Proofs.IssueSteps Sys2Proof.Proofs.AnswerSteps

/-! ### The accepting step -/

theorem ready_iff {s : State} : ready s = true ↔ s.phase = .idle ∧ s.resetAsserted = false := by
  simp [ready]

/-- A ready block takes the packet that stands first and runs its operation. -/
theorem step_command {s : State} {p : Packet} {i : Instr} {rest : List Input} (hready : ready s = true)
    (hin : s.inputs = .command p :: rest) (hdecode : decode p = .ok i) : step s = exec i { s with inputs := rest } :=
  CommandPort.stepRunsTheDecodedOperation s [] rest p i hready hin (by simp) hdecode

/-- The operation of a packet has operands that fit one (rule R71). -/
theorem wellFormed_of_decode {p : Packet} {i : Instr} (h : decode p = .ok i) : wellFormed i := by
  obtain ⟨hwf, rfl⟩ := decode_ok h
  exact decodeHead_wellFormed p.head (operandsFit_of_packetWellFormed hwf)

@[simp] theorem issued_tables (opc : Byte) (ops : List Byte) (n : BitVec 2) (kind : PendKind) (s : State) :
    (issued opc ops n kind s).tables = s.tables := rfl

@[simp] theorem issued_resetAsserted (opc : Byte) (ops : List Byte) (n : BitVec 2) (kind : PendKind) (s : State) :
    (issued opc ops n kind s).resetAsserted = s.resetAsserted := rfl

@[simp] theorem issued_inputs (opc : Byte) (ops : List Byte) (n : BitVec 2) (kind : PendKind) (s : State) :
    (issued opc ops n kind s).inputs = s.inputs := rfl

/-! ### Commands without a response -/

/-- An operation that asks for no response and has a wire command issues that command. -/
theorem exec_of_wireCommand {i : Instr} {s : State} {opc : Byte} {ops : List Byte} (hwf : wellFormed i)
    (hlen : responseLength s.tables i = some 0) (hcommand : wireCommand s.tables i = some (opc, ops)) :
    ops.length ≤ maxOps ∧ ∃ kind, exec i s = .next (issued opc ops 0 kind s) := by
  cases i with
  | setTarget ch a | setSpeed ch a | setAcceleration ch a =>
    obtain ⟨ha, rfl, rfl⟩ := setCommand_eq_some hcommand
    have hfits : fits14 a := representable_iff.mp ha
    rw [channelValueOps_of_fits hfits]
    exact ⟨(by decide : 3 ≤ maxOps), .none, issueSet_of_fits hfits _ ch s⟩
  | goHome =>
    cases hcommand
    exact ⟨Nat.zero_le _, .none, exec_goHome s⟩
  | xfer opc ops n =>
    cases hcommand
    obtain rfl := Option.some.inj hlen
    exact ⟨hwf, .raw, exec_xfer_of_fit opc hwf 0 s⟩
  | getScriptStatus | stopScript | restartScriptAtSubroutine | restartScriptAtSubroutineWithParameter =>
    cases hcommand
    rw [AcceptedCommands.exec_expand, expand, Option.some.inj hlen]
    exact ⟨hwf, .raw, exec_xfer_of_fit _ hwf 0 s⟩
  | getPosition | getMovingState | getErrors => exact absurd (Option.some.inj hlen) (by decide)
  | pack16 | unpack16 | addrDev | addrServo | encode | codeOf | nameOf | decErrors => cases hlen

/-- An issued command that expects no response, after `tx ok` (rule R148). -/
def sent (opc : Byte) (ops : List Byte) (kind : PendKind) (s : State) : State :=
  endTransaction { issued opc ops 0 kind s with rxlen := 0 }

/-- The two steps of a command without a response: issue, end. -/
theorem run_sent {s : State} {p : Packet} {i : Instr} {opc : Byte} {ops : List Byte} {kind : PendKind}
    {rest : List Input} (hready : ready s = true) (hin : s.inputs = .command p :: .txAnswer .ok :: rest)
    (hdecode : decode p = .ok i) (hexec : exec i { s with inputs := .txAnswer .ok :: rest } =
      .next (issued opc ops 0 kind { s with inputs := .txAnswer .ok :: rest })) :
    runSteps 2 s = .next (sent opc ops kind { s with inputs := rest }) := by
  obtain ⟨-, hreset⟩ := ready_iff.mp hready
  have hissue := (step_command hready hin hdecode).trans hexec
  have hend := step_txOk_of_zero (issued_phase opc ops 0 kind { s with inputs := .txAnswer .ok :: rest })
    ((issued_resetAsserted ..).trans hreset) (issued_inputs ..) rfl
  exact (run_of_next hissue 1).trans (run_of_next hend 0)

/-- Settles O31: the operation issues its wire command, and the transmit answer ends it. -/
theorem commandsWithoutResponseEnd : Obligations.CommandsWithoutResponseEnd := by
  intro s p i f rest hready hinv hin hdecode hlen hframe
  obtain ⟨hphase, -⟩ := ready_iff.mp hready
  obtain ⟨htx, -, -, -, -, -⟩ := hinv
  obtain ⟨opc, ops, hcommand, rfl⟩ := wireFrame_eq_some.mp hframe
  obtain ⟨hops, kind, hexec⟩ :=
    exec_of_wireCommand (s := { s with inputs := .txAnswer .ok :: rest }) (wellFormed_of_decode hdecode) hlen hcommand
  obtain ⟨-, hcurrent, -⟩ := issued_frame (s := { s with inputs := rest }) htx opc hops 0 kind
  refine ⟨_, run_sent hready hin hdecode hexec, ?_, hcurrent⟩
  simp only [sent, endTransaction, issued_eq, hphase, frameOf]

/-- Settles O30: SET_TARGET in range expects no response, and its wire frame is that of `0x84`. -/
theorem setTargetTransaction : Obligations.SetTargetTransaction := by
  intro s p ch a rest hready hinv hin hdecode ha
  have hcommand : wireCommand s.tables (.setTarget ch a) = some (0x84, [ch, lowSeven a, highSeven a]) := by
    rw [← channelValueOps_of_fits ha]
    exact if_pos (representable_iff.mpr ha)
  exact commandsWithoutResponseEnd s p _ _ rest hready hinv hin hdecode rfl (wireFrame_eq_some.mpr ⟨_, _, hcommand, rfl⟩)

/-! ### Commands with a response -/

/-- The two answers that complete a transaction: start of the read, decode. -/
theorem run_answers {u : State} {bs : List Byte} {rest : List Input} (hphase : u.phase = .tx)
    (hreset : u.resetAsserted = false) (hin : u.inputs = .txAnswer .ok :: .rxAnswer (.ok bs) :: rest) (hn : u.pend.n ≠ 0)
    (hlen : bs.length = u.pend.n.toNat) :
    runSteps 2 u = .next (endTransaction (decodeResponse u.pend.kind
      (storeResponse bs (rxRequest u.pend.n.toNat { u with phase := .rx, inputs := rest })))) :=
  (run_of_next (step_txOk_of_ne_zero hphase hreset hin hn) 1).trans
    (run_of_next (step_rxOk_of_complete
      (s := rxRequest u.pend.n.toNat { u with phase := .rx, inputs := .rxAnswer (.ok bs) :: rest }) rfl hreset rfl hlen) 0)

/-- What a transaction leaves whose response came complete: the registers that the decoder of its kind writes, and the frame
and the two requests of the transaction. -/
def answered (opc : Byte) (ops : List Byte) (n : BitVec 2) (kind : PendKind) (bs : List Byte) (rest : List Input)
    (s : State) : State :=
  { decodeResponse kind (storeResponse bs s) with
      status := 0
      txbuf := (storeFrame (frameOf opc ops s) s).txbuf
      txlen := (storeFrame (frameOf opc ops s) s).txlen
      phase := .idle
      pend := ⟨kind, n⟩
      inputs := rest
      transportLog := s.transportLog ++ [.txSend (frameOf opc ops s), .rxRequest n.toNat s.tables.timeout] }

/-- The decoders neither read nor write the frame and the sequencer. -/
theorem decodeResponse_sequencer (kind : PendKind) (bs : List Byte) (s : State) (m : Memory) (k : BitVec 5) (ph : Phase)
    (q : Pend) (l : List Input) (log : List Request) :
    decodeResponse kind (storeResponse bs
        { s with txbuf := m, txlen := k, phase := ph, pend := q, inputs := l, transportLog := log }) =
      { decodeResponse kind (storeResponse bs s) with
          txbuf := m, txlen := k, phase := ph, pend := q, inputs := l, transportLog := log } := by
  cases kind <;> rfl

/-- What the answers leave of an issued command does not depend on what waited behind it. -/
theorem endTransaction_issued_eq_answered (opc : Byte) (ops : List Byte) (n : BitVec 2) (kind : PendKind) (bs : List Byte)
    (l rest : List Input) (s : State) :
    endTransaction (decodeResponse kind (storeResponse bs
        (rxRequest n.toNat { issued opc ops n kind { s with inputs := l } with phase := .rx, inputs := rest }))) =
      answered opc ops n kind bs rest s := by
  simp only [rxRequest, issued_eq, decodeResponse_sequencer, endTransaction, answered, List.append_assoc,
    List.singleton_append]
  rfl

section Response

variable {s : State} {p : Packet} {i : Instr} {opc : Byte} {ops : List Byte} {n : BitVec 2} {kind : PendKind}
  {bs : List Byte} {rest : List Input}

/-- The three steps of a transaction whose response comes complete. -/
theorem run_answered (hready : ready s = true)
    (hin : s.inputs = .command p :: .txAnswer .ok :: .rxAnswer (.ok bs) :: rest) (hdecode : decode p = .ok i)
    (hexec : ∀ l, exec i { s with inputs := l } = .next (issued opc ops n kind { s with inputs := l })) (hn : n ≠ 0)
    (hlen : bs.length = n.toNat) : runSteps 3 s = .next (answered opc ops n kind bs rest s) := by
  obtain ⟨-, hreset⟩ := ready_iff.mp hready
  have hissue := (step_command hready hin hdecode).trans (hexec _)
  rw [run_of_next hissue 2,
    ← endTransaction_issued_eq_answered opc ops n kind bs (.txAnswer .ok :: .rxAnswer (.ok bs) :: rest)]
  exact run_answers (issued_phase ..) ((issued_resetAsserted ..).trans hreset) (issued_inputs ..) hn hlen

theorem currentFrame_answered (hwf : Memory.wf txCap s.txbuf) (hops : ops.length ≤ maxOps) :
    currentFrame (answered opc ops n kind bs rest s) = frame s.variant s.devid opc ops := by
  obtain ⟨-, -, -, hframe⟩ := storeFrame_spec (f := frameOf opc ops s) hwf (frame_length_le hops)
  exact hframe

theorem answered_rxbuf : (answered opc ops n kind bs rest s).rxbuf = (storeResponse bs s).rxbuf := by
  rw [answered, decodeResponse_frame]

theorem memReadSeq_answered (hwf : Memory.wf maxResp s.rxbuf) (hbs : bs.length ≤ maxResp) :
    memReadSeq (answered opc ops n kind bs rest s).rxbuf bs.length = bs := by
  rw [answered_rxbuf]
  exact memReadSeq_memWriteSeq hwf hbs

end Response

/-- Settles O27: POSITION writes `RVAL` alone. -/
theorem getPositionTransaction : Obligations.GetPositionTransaction := by
  intro s p ch b0 b1 rest hready hinv hin hdecode hch
  obtain ⟨hphase, -⟩ := ready_iff.mp hready
  obtain ⟨htx, hrx, -, -, -, -⟩ := hinv
  have hrun := run_answered (opc := s.tables.opcGetPosition) hready hin hdecode
    (fun l => exec_getPosition_of_channel (s := { s with inputs := l }) hch) (by decide) rfl
  refine ⟨_, hrun, ?record, ?rval, currentFrame_answered htx (by decide : 1 ≤ maxOps),
    memReadSeq_answered (bs := [b0, b1]) hrx (by decide : 2 ≤ maxResp)⟩
  case record =>
    rw [answered, decodeResponse_position hrx, hphase]
    rfl
  case rval =>
    rw [answered, decodeResponse_position hrx]
    exact zext16_unpack16_toNat b0 b1

/-- Settles O28: MOVING writes `RVAL` and the flag. -/
theorem getMovingStateTransaction : Obligations.GetMovingStateTransaction := by
  intro s p b0 rest hready hinv hin hdecode
  obtain ⟨hphase, -⟩ := ready_iff.mp hready
  obtain ⟨htx, hrx, -, -, -, -⟩ := hinv
  have hrun := run_answered (opc := s.tables.opcGetMovingState) hready hin hdecode (fun _ => exec_getMovingState _)
    (by decide) rfl
  refine ⟨_, hrun, ?record, ?rval, ?moving, currentFrame_answered htx (Nat.zero_le _),
    memReadSeq_answered (bs := [b0]) hrx (by decide : 1 ≤ maxResp)⟩
  case record =>
    rw [answered, decodeResponse_moving hrx, hphase]
    rfl
  all_goals rw [answered, decodeResponse_moving hrx]
  case rval => exact movingWord_toNat b0
  case moving => exact movingFlag_iff

/-- Settles O29: ERRORS writes `RVAL` and the two fields of it. -/
theorem getErrorsTransaction : Obligations.GetErrorsTransaction := by
  intro s p b0 b1 rest hready hinv hin hdecode
  obtain ⟨hphase, -⟩ := ready_iff.mp hready
  obtain ⟨htx, hrx, -, -, -, -⟩ := hinv
  have hrun := run_answered (opc := s.tables.opcGetErrors) hready hin hdecode (fun _ => exec_getErrors _) (by decide) rfl
  refine ⟨_, hrun, ?record, ?rval, ?known, ?unrec, currentFrame_answered htx (Nat.zero_le _),
    memReadSeq_answered (bs := [b0, b1]) hrx (by decide : 2 ≤ maxResp)⟩
  all_goals rw [answered, decodeResponse_errors hrx]
  case record =>
    rw [hphase]
    rfl
  case rval => exact errorWord_toNat _ b0 b1
  case known => rfl
  case unrec => rfl

/-- Settles O32: RAW writes no register. -/
theorem xferTransaction : Obligations.XferTransaction := by
  intro s p opc ops n bs rest hready hinv hin hdecode hn hlen
  obtain ⟨hphase, -⟩ := ready_iff.mp hready
  obtain ⟨htx, hrx, -, -, -, -⟩ := hinv
  have hops : ops.length ≤ maxOps := wellFormed_of_decode hdecode
  have hrun := run_answered hready hin hdecode (fun _ => exec_xfer_of_fit opc hops n _) hn hlen
  refine ⟨_, hrun, ?record, currentFrame_answered htx hops, fun i => ?rxbuf⟩
  case record =>
    rw [hphase, ← ofNat_length_eq hlen]
    rfl
  case rxbuf =>
    rw [answered_rxbuf]
    exact memRead_storeResponse hrx (hlen.trans_le (toNat_le_maxResp n)) i

end Sys2Proof.Proofs.Transactions
end

section
/-! PROOFS. Every accepted command is over after at most two answers (rules R140, R145, R152): after each step the block is
either at rest, where no answer moves it any more, or in the next phase of the one transaction. -/

namespace Sys2Proof.Proofs.BoundedTransactions

open Sys2Proof.Machine Sys2Proof.Config Sys2Proof.Proofs.Effects Sys2Proof.Proofs.Failures
open Sys2Proof.Proofs.AnswerSteps Sys2Proof.Proofs.Transactions

/-! ### A block at rest -/

/-- The block is ready, and what waits at its inputs are answers to nothing. -/
def atRest (s : State) : Prop := ready s = true ∧ ∀ x ∈ s.inputs, isAnswer x = true

theorem run_of_atRest {s : State} (h : atRest s) (k : Nat) : runSteps k s = .next s := by
  obtain ⟨hready, hanswers⟩ := h
  refine run_of_waiting (takeInput_eq_none.mpr fun x hx => ?_) k
  by_contra hen
  exact busy_of_enabled_answer (hanswers x hx) (by simpa using hen) (ready_iff.mp hready).1

theorem commandsIn_of_atRest {s : State} (h : atRest s) : commandsIn s.inputs = [] := by
  obtain ⟨-, hanswers⟩ := h
  generalize s.inputs = l at hanswers
  induction l with
  | nil => rfl
  | cons x rest ih =>
    have hrest := ih fun y hy => hanswers y (List.mem_cons_of_mem _ hy)
    cases x with
    | txAnswer | rxAnswer => exact hrest
    | command | resetAssert | resetRelease => cases hanswers _ List.mem_cons_self

theorem raiseError_atRest {s : State} (hreset : s.resetAsserted = false) (hanswers : ∀ x ∈ s.inputs, isAnswer x = true)
    (e : ErrorKind) : atRest (raiseError e s) :=
  ⟨ready_iff.mpr ⟨rfl, hreset⟩, hanswers⟩

theorem endTransaction_atRest {s : State} (hreset : s.resetAsserted = false)
    (hanswers : ∀ x ∈ s.inputs, isAnswer x = true) : atRest (endTransaction s) :=
  ⟨ready_iff.mpr ⟨rfl, hreset⟩, hanswers⟩

/-! ### The receive answer -/

/-- Whatever the receive answer, it ends the transaction and nothing more is asked of the transport. -/
theorem rxAnswerStep_atRest (a : RxAnswer) {s : State} (hreset : s.resetAsserted = false)
    (hanswers : ∀ x ∈ s.inputs, isAnswer x = true) :
    atRest (rxAnswerStep a s) ∧ (rxAnswerStep a s).transportLog = s.transportLog := by
  obtain ⟨e, h⟩ | ⟨bs, -, -, h⟩ := rxAnswerStep_cases a s
  · rw [h]
    exact ⟨raiseError_atRest hreset hanswers e, rfl⟩
  · rw [h, decodeResponse_frame]
    exact ⟨endTransaction_atRest hreset hanswers, rfl⟩

/-! ### The transmit answer, and the receive answer behind it -/

/-- `t` has asked the transport for one read of 1 to 3 bytes since `s`. -/
def hasRead (s t : State) : Prop :=
  ∃ n, 1 ≤ n ∧ n ≤ 3 ∧ t.transportLog = s.transportLog ++ [.rxRequest n s.tables.timeout]

/-- In TX the two answers bring the block to rest, with at most one read. -/
theorem run_answers_atRest {s : State} {a : TxAnswer} {r : RxAnswer} (hphase : s.phase = .tx)
    (hreset : s.resetAsserted = false) (hin : s.inputs = [.txAnswer a, .rxAnswer r]) :
    ∃ t, runSteps 2 s = .next t ∧ atRest t ∧ (t.transportLog = s.transportLog ∨ hasRead s t) := by
  have hstep := step_txAnswer hphase hreset hin
  have hanswers : ∀ x ∈ [Input.rxAnswer r], isAnswer x = true := by simp [isAnswer]
  obtain ⟨-, h⟩ | ⟨-, -, h⟩ | ⟨-, hn, h⟩ := txAnswerStep_cases a { s with inputs := [.rxAnswer r] } <;> rw [h] at hstep
  · have hrest := raiseError_atRest (s := { s with inputs := [.rxAnswer r] }) hreset hanswers .ioError
    exact ⟨_, (run_of_next hstep 1).trans (run_of_atRest hrest 1), hrest, .inl rfl⟩
  · have hrest := endTransaction_atRest (s := { s with inputs := [.rxAnswer r], rxlen := 0 }) hreset hanswers
    exact ⟨_, (run_of_next hstep 1).trans (run_of_atRest hrest 1), hrest, .inl rfl⟩
  · have hread := step_rxAnswer
      (s := rxRequest s.pend.n.toNat { s with inputs := [.rxAnswer r], phase := .rx }) rfl hreset rfl
    obtain ⟨hrest, hlog⟩ := rxAnswerStep_atRest r
      (s := { rxRequest s.pend.n.toNat { s with inputs := [.rxAnswer r], phase := .rx } with inputs := [] })
      hreset (by simp)
    have hpos : 1 ≤ s.pend.n.toNat := Nat.one_le_iff_ne_zero.mpr fun h0 => hn (BitVec.eq_of_toNat_eq h0)
    exact ⟨_, (run_of_next hstep 1).trans (run_of_next hread 0), hrest, .inr ⟨_, hpos, toNat_le_maxResp _, hlog⟩⟩

/-! ### The accepted command -/

/-- A well-formed operation always answers a next state (rule R195). -/
theorem exec_of_wellFormed {i : Instr} (hwf : wellFormed i) (s : State) : ∃ t, exec i s = .next t := by
  cases i with
  | encode opc ops => exact ⟨_, Framing.exec_encode_of_fit opc hwf s⟩
  | xfer | getScriptStatus | stopScript | restartScriptAtSubroutine | restartScriptAtSubroutineWithParameter =>
    exact ⟨_, issue_of_fit hwf _ _ _ _ s⟩
  | setTarget | setSpeed | setAcceleration | getPosition | getMovingState | getErrors | goHome
  | pack16 | unpack16 | addrDev | addrServo | codeOf | nameOf | decErrors => exact ⟨_, rfl⟩

/-- Every packet is taken with one legal effect. -/
theorem stepInput_command_of_wf {p : Packet} (hp : packetWellFormed p) (s : State) :
    ∃ e : Effect, e.legal ∧ stepInput (.command p) s = .next (e.apply s) := by
  have hdecode := decode_of_wf hp
  obtain ⟨t, ht⟩ := exec_of_wellFormed (wellFormed_of_decode hdecode) s
  have hstep : stepInput (.command p) s = .next t := by simpa only [stepInput, hdecode] using ht
  obtain ⟨e, hlegal, rfl, -⟩ := stepInput_command_next hstep
  exact ⟨e, hlegal, hstep⟩

/-- An effect leaves a ready block ready and makes no request, or it issues a transaction. -/
theorem apply_ready_or_issued (e : Effect) {s : State} (hready : ready s = true) :
    (ready (e.apply s) = true ∧ (e.apply s).transportLog = s.transportLog) ∨
      ∃ opc ops n kind, e.apply s = issued opc ops n kind s := by
  obtain ⟨-, hreset⟩ := ready_iff.mp hready
  cases e with
  | raise k => exact .inl ⟨ready_iff.mpr ⟨rfl, hreset⟩, rfl⟩
  | complete u => exact .inl ⟨hready, rfl⟩
  | build f => exact .inl ⟨hready, rfl⟩
  | issue opc ops n kind => exact .inr ⟨opc, ops, n, kind, rfl⟩

/-- Since `s` the block has made no request, or one send, or one send and then one read of 1 to 3 bytes (rule R152). -/
def atMostOneSendOneRead (s t : State) : Prop :=
  t.transportLog = s.transportLog ∨ (∃ f, t.transportLog = s.transportLog ++ [.txSend f]) ∨
    ∃ f n, 1 ≤ n ∧ n ≤ 3 ∧ t.transportLog = s.transportLog ++ [.txSend f, .rxRequest n s.tables.timeout]

/-- An effect that issues nothing leaves the block at rest, and an issued transaction does after its two answers. -/
theorem run_apply_atRest (e : Effect) {s : State} {a : TxAnswer} {r : RxAnswer} (hready : ready s = true)
    (hin : s.inputs = [.txAnswer a, .rxAnswer r]) :
    ∃ t, runSteps 2 (e.apply s) = .next t ∧ atRest t ∧ atMostOneSendOneRead s t := by
  obtain ⟨hready', hlog⟩ | ⟨opc, ops, n, kind, hissued⟩ := apply_ready_or_issued e hready
  · have hrest : atRest (e.apply s) := ⟨hready', by simp [apply_inputs, hin, isAnswer]⟩
    exact ⟨_, run_of_atRest hrest 2, hrest, .inl hlog⟩
  · rw [hissued]
    obtain ⟨-, hreset⟩ := ready_iff.mp hready
    obtain ⟨t, hrun, hrest, hlog | ⟨m, hpos, hle, hlog⟩⟩ := run_answers_atRest (issued_phase opc ops n kind s)
      ((issued_resetAsserted ..).trans hreset) ((issued_inputs ..).trans hin)
    · exact ⟨t, hrun, hrest, .inr (.inl ⟨_, hlog⟩)⟩
    · rw [issued_transportLog, issued_tables, List.append_assoc] at hlog
      exact ⟨t, hrun, hrest, .inr (.inr ⟨_, m, hpos, hle, hlog⟩)⟩

/-- Settles O33: the packet is taken with one effect, and the two answers are left for the transaction. -/
theorem everyCommandEndsAfterTwoAnswers : Obligations.EveryCommandEndsAfterTwoAnswers := by
  intro s p a r hready hp hin
  obtain ⟨e, -, heffect⟩ := stepInput_command_of_wf hp { s with inputs := [.txAnswer a, .rxAnswer r] }
  have hstep := (step_of_enabled hin hready).trans heffect
  obtain ⟨t, hrun, hrest, hlog⟩ := run_apply_atRest e (s := { s with inputs := [.txAnswer a, .rxAnswer r] }) hready rfl
  exact ⟨t, (run_of_next hstep 2).trans hrun, hrest.1, commandsIn_of_atRest hrest, hlog⟩

end Sys2Proof.Proofs.BoundedTransactions
end

section
/-! PROOFS. Response decoding (44_decode.md): every bit of the error word in terms of the two bytes of the response, where the
update of rule R183 puts these bits, and the two readings of `ERR_SHIFT`. -/

namespace Sys2Proof.Proofs.ErrorWord

open Sys2Proof.Machine Sys2Proof.Config Sys2Proof.Proofs.HostPacket Sys2Proof.Proofs.AnswerSteps

/-! ### Where the bits of the error word go (rules R17, R24, R183) -/

/-- No condition is on a reserved bit. -/
theorem conditionBit_lt (c : ErrorCondition) : conditionBit c < 9 := by
  cases c <;> decide

section SetErrors

variable (w : BitVec 16) (s : State)

theorem setErrors_errknown_getLsbD {i : Nat} (hi : i < 9) : (setErrors w s).errknown.getLsbD i = w.getLsbD i := by
  simp [hi]

theorem setErrors_errunrec_getLsbD {j : Nat} (hj : j < 7) : (setErrors w s).errunrec.getLsbD j = w.getLsbD (9 + j) := by
  simp [hj]

theorem conditionReported_setErrors (c : ErrorCondition) :
    conditionReported c (setErrors w s) = w.getLsbD (conditionBit c) :=
  setErrors_errknown_getLsbD w s (conditionBit_lt c)

end SetErrors

/-! ### DEC_ERRORS (rule R184) -/

theorem exec_decErrors (b0 b1 : Byte) (s : State) :
    exec (.decErrors b0 b1) s = .next (endOk (setErrors (errorWord s.tables.errShift b0 b1) s)) := rfl

/-- Settles O16: the nine conditions by name are the one fact about every condition. -/
theorem decErrorsCompletes : Obligations.DecErrorsCompletes := by
  refine ⟨selects_of_decodeHead decodeHead_decErrors, fun b0 b1 s => ?_⟩
  have hreported := conditionReported_setErrors (errorWord s.tables.errShift b0 b1) s
  exact ⟨_, exec_decErrors b0 b1 s, rfl, errorWord_toNat _ b0 b1, hreported,
    hreported .serialSignal, hreported .serialOverrun, hreported .serialBufferFull, hreported .serialCrc,
    hreported .serialProtocol, hreported .serialTimeout, hreported .scriptStack, hreported .scriptCallStack,
    hreported .scriptProgramCounter, fun _ => setErrors_errknown_getLsbD _ s, fun _ => setErrors_errunrec_getLsbD _ s⟩

/-! ### The bits of the error word (rules R183, R185) -/

/-- Bit `i` of the word is bit `i` of byte 0 or, from the shift on, the bit of byte 1 that many places below. -/
theorem errorWord_getLsbD (sh : ErrShift) (b0 b1 : Byte) (i : Nat) :
    (errorWord sh b0 b1).getLsbD i =
      (b0.getLsbD i || (decide (errShiftAmount sh ≤ i) && b1.getLsbD (i - errShiftAmount sh))) := by
  rw [← BitVec.testBit_toNat, errorWord_toNat, Nat.testBit_or, Nat.testBit_shiftLeft]
  rfl

/-- From bit 8 on, byte 0 is out of the word. -/
theorem errorWord_seven_getLsbD_add (b0 b1 : Byte) (j : Nat) :
    (errorWord .seven b0 b1).getLsbD (j + 8) = b1.getLsbD (j + 1) := by
  simp [errorWord_getLsbD, errShiftAmount]

theorem errorWord_eight_getLsbD_add (b0 b1 : Byte) (j : Nat) :
    (errorWord .eight b0 b1).getLsbD (j + 8) = b1.getLsbD j := by
  simp [errorWord_getLsbD, errShiftAmount]

/-! ### The two readings of `ERR_SHIFT` (rule R185) -/

/-- A byte whose neighbouring bits all agree, those past its end included, is zero. -/
theorem eq_zero_of_getLsbD_succ {b : Byte} (h : ∀ j, b.getLsbD (j + 1) = b.getLsbD j) : b = 0 := by
  have hconst : ∀ j, b.getLsbD j = b.getLsbD 0 := by
    intro j
    induction j with
    | zero => rfl
    | succ j ih => exact (h j).trans ih
  have hend : b.getLsbD 0 = false := (hconst 8).symm.trans (BitVec.getLsbD_of_ge b 8 le_rfl)
  refine BitVec.eq_of_getLsbD_eq fun j _ => ?_
  rw [hconst j, hend]
  exact BitVec.getLsbD_zero.symm

/-- In the high byte the readings hold the bits of byte 1 one place apart, so they agree only where the shift by one place
changes nothing. -/
theorem errorWord_seven_eq_eight_iff {b0 b1 : Byte} : errorWord .seven b0 b1 = errorWord .eight b0 b1 ↔ b1 = 0 := by
  constructor
  · intro hword
    refine eq_zero_of_getLsbD_succ fun j => ?_
    rw [← errorWord_seven_getLsbD_add b0 b1 j, hword, errorWord_eight_getLsbD_add]
  · rintro rfl
    exact BitVec.eq_of_toNat_eq (by simp [errorWord_toNat])

/-- Settles O17: bits 8 and 15 are bits 0 and 7 of the high byte, and in bit 7 only shift 7 has a bit of byte 1. -/
theorem errShiftReadings : Obligations.ErrShiftReadings := by
  intro b0 b1
  have hfifteen := (errorWord_seven_getLsbD_add b0 b1 7).trans (BitVec.getLsbD_of_ge b1 8 le_rfl)
  exact ⟨errorWord_getLsbD .seven b0 b1 7, errorWord_seven_getLsbD_add b0 b1 0,
    (errorWord_getLsbD .eight b0 b1 7).trans (Bool.or_false _), errorWord_eight_getLsbD_add b0 b1 0,
    hfifteen, errorWord_seven_eq_eight_iff⟩

end Sys2Proof.Proofs.ErrorWord
end

section
/-! PROOFS. The exceptional outcomes (60_exceptions.md): what raising an error writes, which statuses an operation can
end with (rule R205), and that no run stops (rule R195). -/

namespace Sys2Proof.Proofs.Exceptions

open Sys2Proof.Machine Sys2Proof.Config Sys2Proof.Proofs.Failures
open Sys2Proof.Proofs.Packing Sys2Proof.Proofs.Registry Sys2Proof.Proofs.Framing Sys2Proof.Proofs.AnswerSteps
open Sys2Proof.Proofs.Transactions Sys2Proof.Proofs.BoundedTransactions

/-! ### Raising an error (rules R196, R207) -/

theorem ready_raiseError (e : ErrorKind) (s : State) : ready (raiseError e s) = !s.resetAsserted := rfl

/-- Settles O38: `raiseError` writes two registers, and the codes are read off their table. -/
theorem raisingAnError : Obligations.RaisingAnError :=
  ⟨fun e s => ⟨rfl, ready_raiseError e s⟩, rfl, rfl, rfl, rfl, rfl, rfl⟩

/-! ### The statuses of the pure operations (rule R205) -/

/-- The operation answers a next state with a status of its row. -/
def completesInRow (i : Instr) (s : State) : Prop := ∃ t, exec i s = .next t ∧ t.status ∈ statuses s.tables i

theorem pack16_completesInRow (a : Arg16) (s : State) : completesInRow (.pack16 a) s := by
  by_cases ha : fits14 a
  · exact ⟨_, exec_pack16_of_fits ha s, by simp [statuses]⟩
  · exact ⟨_, exec_pack16_of_not_fits ha s, by simp [statuses, errorCode]⟩

theorem addrDev_completesInRow (pid : Byte) (s : State) : completesInRow (.addrDev pid) s := by
  cases hrow : paramOf s.tables.devparams pid with
  | none => exact ⟨_, exec_addrDev_of_unknown hrow, by simp [statuses, errorCode]⟩
  | some r => exact ⟨_, exec_addrDev_of_row hrow, by simp [statuses]⟩

theorem addrServo_completesInRow (ch fid : Byte) (s : State) : completesInRow (.addrServo ch fid) s := by
  obtain hch | hch := Nat.lt_or_ge ch.toNat s.nch.toNat
  · cases hrow : paramOf s.tables.fields fid with
    | none => exact ⟨_, exec_addrServo_of_unknown hch hrow, by simp [statuses, errorCode]⟩
    | some r => exact ⟨_, exec_addrServo_of_row hch hrow, by simp [statuses]⟩
  · exact ⟨_, exec_addrServo_of_badChannel hch, by simp [statuses, errorCode]⟩

theorem codeOf_completesInRow (idx : Byte) (s : State) : completesInRow (.codeOf idx) s := by
  cases hrow : rowOf s.tables idx.toNat with
  | none => exact ⟨_, exec_codeOf_of_unknown hrow, by simp [statuses, errorCode]⟩
  | some r => exact ⟨_, exec_codeOf_of_row hrow, by simp [statuses]⟩

theorem pure_completesInRow {i : Instr} (hpure : isPure i = true) (hwf : wellFormed i) (s : State) :
    completesInRow i s := by
  cases i with
  | pack16 a => exact pack16_completesInRow a s
  | addrDev pid => exact addrDev_completesInRow pid s
  | addrServo ch fid => exact addrServo_completesInRow ch fid s
  | codeOf idx => exact codeOf_completesInRow idx s
  | encode opc ops => exact ⟨_, exec_encode_of_fit opc hwf s, List.mem_singleton_self _⟩
  | unpack16 | nameOf | decErrors => exact ⟨_, rfl, List.mem_singleton_self _⟩
  | xfer | setTarget | setSpeed | setAcceleration | getPosition | getMovingState | getErrors | goHome
  | getScriptStatus | stopScript | restartScriptAtSubroutine | restartScriptAtSubroutineWithParameter => cases hpure

/-- A pure operation ends in its row, and the block is at rest when only answers wait. -/
theorem pure_next_atRest {i : Instr} {s t : State} (hpure : isPure i = true) (hwf : wellFormed i) (hready : ready s = true)
    (hanswers : ∀ x ∈ s.inputs, isAnswer x = true) (h : exec i s = .next t) :
    atRest t ∧ t.status ∈ statuses s.tables i := by
  obtain ⟨hphase, hreset⟩ := ready_iff.mp hready
  obtain ⟨u, hu, hrow⟩ := pure_completesInRow hpure hwf s
  obtain ⟨v, hv, hside⟩ := Scope.exec_offTransport_of_isPure hpure hwf hphase
  obtain rfl := Host.Outcome.next.inj (h.symm.trans hu)
  obtain rfl := Host.Outcome.next.inj (h.symm.trans hv)
  have hin : t.inputs = s.inputs := congrArg Scope.TransportSide.inputs hside
  exact ⟨⟨ready_iff.mpr ⟨(congrArg Scope.TransportSide.phase hside).trans hphase,
    (congrArg Scope.TransportSide.resetAsserted hside).trans hreset⟩, hin ▸ hanswers⟩, hrow⟩

/-! ### The statuses of the two answers (rules R148, R149, R205) -/

theorem zero_mem_answerStatuses (n : BitVec 2) : 0 ∈ answerStatuses n := by
  rw [answerStatuses]
  split <;> simp

theorem ioError_mem_answerStatuses (n : BitVec 2) : errorCode .ioError ∈ answerStatuses n := by
  rw [answerStatuses]
  split <;> simp [errorCode]

/-- A receive answer ends a transaction that expects a response with one of the statuses that it leaves possible. -/
theorem rxAnswerStep_status_mem (r : RxAnswer) {s : State} (hn : s.pend.n ≠ 0) :
    (rxAnswerStep r s).status ∈ answerStatuses s.pend.n := by
  rw [answerStatuses, if_neg hn]
  cases r with
  | ioerr | timeout => simp [rxAnswerStep, errorCode]
  | ok bs =>
    rw [rxAnswerStep]
    split <;> simp [errorCode]

/-- In TX the two answers end the transaction with a status that its response length leaves possible. -/
theorem run_answers_status_mem {s t : State} {a : TxAnswer} {r : RxAnswer} (hphase : s.phase = .tx)
    (hreset : s.resetAsserted = false) (hin : s.inputs = [.txAnswer a, .rxAnswer r]) (hrun : runSteps 2 s = .next t) :
    t.status ∈ answerStatuses s.pend.n := by
  have hanswers : ∀ x ∈ [Input.rxAnswer r], isAnswer x = true := by simp [isAnswer]
  rw [run_of_next (step_txAnswer hphase hreset hin)] at hrun
  obtain ⟨-, h⟩ | ⟨-, -, h⟩ | ⟨-, hn, h⟩ := txAnswerStep_cases a { s with inputs := [.rxAnswer r] } <;> rw [h] at hrun
  · rw [run_of_atRest (raiseError_atRest (s := { s with inputs := [.rxAnswer r] }) hreset hanswers .ioError)] at hrun
    obtain rfl := Host.Outcome.next.inj hrun
    exact ioError_mem_answerStatuses _
  · rw [run_of_atRest (endTransaction_atRest (s := { s with inputs := [.rxAnswer r], rxlen := 0 }) hreset hanswers)] at hrun
    obtain rfl := Host.Outcome.next.inj hrun
    exact zero_mem_answerStatuses _
  · have hread := step_rxAnswer
      (s := rxRequest s.pend.n.toNat { s with inputs := [.rxAnswer r], phase := .rx }) rfl hreset rfl
    rw [run_of_next hread] at hrun
    obtain rfl := Host.Outcome.next.inj hrun
    exact rxAnswerStep_status_mem r hn

/-! ### The statuses of the transactions (rule R205) -/

/-- On `s` the operation is the issue step of a command whose check and whose answers raise statuses of its row only. -/
def issuesInRow (i : Instr) (s : State) : Prop :=
  ∃ check opc ops n kind, exec i s = issue check opc ops n kind s ∧
    (∀ e, check = some e → errorCode e ∈ statuses s.tables i) ∧ answerStatuses n ⊆ statuses s.tables i

theorem valueCheck_code {a : Arg16} {e : ErrorKind} (h : valueCheck a = some e) : errorCode e = 3 := by
  obtain hnone | hsome := valueCheck_cases a
  · cases hnone.symm.trans h
  · cases hsome.symm.trans h
    rfl

theorem channelCheck_code {ch nch : Byte} {e : ErrorKind} (h : channelCheck ch nch = some e) : errorCode e = 2 := by
  obtain hnone | hsome := channelCheck_cases ch nch
  · cases hnone.symm.trans h
  · cases hsome.symm.trans h
    rfl

theorem issuesInRow_of_issueSet {i : Instr} {opc ch : Byte} {a : Arg16} {s : State} (hexec : exec i s = issueSet opc ch a s)
    (hrow : statuses s.tables i = 3 :: answerStatuses 0) : issuesInRow i s := by
  refine ⟨valueCheck a, opc, channelValueOps ch a, 0, .none, hexec, fun e he => ?_, ?_⟩ <;> rw [hrow]
  · exact List.mem_cons.mpr (.inl (valueCheck_code he))
  · exact List.subset_cons_self _ _

theorem getPosition_issuesInRow (ch : Byte) (s : State) : issuesInRow (.getPosition ch) s :=
  ⟨channelCheck ch s.nch, s.tables.opcGetPosition, [ch], 2, .position, rfl,
    fun _ he => List.mem_cons.mpr (.inl (channelCheck_code he)), List.subset_cons_self _ _⟩

/-- An operation without a check can end with what its answers leave possible. -/
theorem issuesInRow_of_unchecked {i : Instr} (opc : Byte) (ops : List Byte) (n : BitVec 2) (kind : PendKind) {s : State}
    (hexec : exec i s = issue none opc ops n kind s) (hrow : statuses s.tables i = answerStatuses n) : issuesInRow i s :=
  ⟨none, opc, ops, n, kind, hexec, fun _ he => (nomatch he), hrow ▸ List.Subset.refl _⟩

theorem transaction_issuesInRow {i : Instr} (hpure : isPure i = false) (s : State) : issuesInRow i s := by
  cases i with
  | setTarget ch a => exact issuesInRow_of_issueSet (opc := opcSetTarget) (ch := ch) (a := a) rfl rfl
  | setSpeed ch a => exact issuesInRow_of_issueSet (opc := s.tables.opcSetSpeed) (ch := ch) (a := a) rfl rfl
  | setAcceleration ch a => exact issuesInRow_of_issueSet (opc := s.tables.opcSetAcceleration) (ch := ch) (a := a) rfl rfl
  | getPosition ch => exact getPosition_issuesInRow ch s
  | getMovingState => exact issuesInRow_of_unchecked s.tables.opcGetMovingState [] 1 .moving rfl rfl
  | getErrors => exact issuesInRow_of_unchecked s.tables.opcGetErrors [] 2 .errors rfl rfl
  | goHome => exact issuesInRow_of_unchecked s.tables.opcGoHome [] 0 .none rfl rfl
  | xfer opc ops n => exact issuesInRow_of_unchecked opc ops n .raw rfl rfl
  | getScriptStatus ops | stopScript ops | restartScriptAtSubroutine ops | restartScriptAtSubroutineWithParameter ops =>
    exact issuesInRow_of_unchecked _ ops _ .raw rfl rfl
  | pack16 | unpack16 | addrDev | addrServo | encode | codeOf | nameOf | decErrors => cases hpure

/-- A transaction ends in its row: its check has refused it, or its answers have ended it. -/
theorem run_transaction_status_mem {i : Instr} {s u t : State} {a : TxAnswer} {r : RxAnswer} (hpure : isPure i = false)
    (hready : ready s = true) (hin : s.inputs = [.txAnswer a, .rxAnswer r]) (h : exec i s = .next u)
    (hrun : runSteps 2 u = .next t) : t.status ∈ statuses s.tables i := by
  obtain ⟨-, hreset⟩ := ready_iff.mp hready
  obtain ⟨check, opc, ops, n, kind, hissue, hcheck, hanswer⟩ := transaction_issuesInRow hpure s
  obtain ⟨-, ⟨e, he, rfl⟩ | ⟨-, rfl⟩⟩ := issue_next (hissue.symm.trans h)
  · rw [run_of_atRest (raiseError_atRest hreset (by simp [hin, isAnswer]) e)] at hrun
    obtain rfl := Host.Outcome.next.inj hrun
    exact hcheck e he
  · exact hanswer (run_answers_status_mem (issued_phase opc ops n kind s) hreset hin hrun)

/-- Settles O34: a pure operation has ended with the accepting step, a transaction ends with its answers. -/
theorem operationsEndWithTheirStatuses : Obligations.OperationsEndWithTheirStatuses := by
  intro s t p i a r hready hin hdecode hrun
  obtain ⟨u, hu, hrest⟩ := run_next_cases hrun
  have hexec := (step_command hready hin hdecode).symm.trans hu
  cases hpure : isPure i with
  | true =>
    obtain ⟨hatRest, hrow⟩ := pure_next_atRest (s := { s with inputs := [.txAnswer a, .rxAnswer r] }) hpure
      (wellFormed_of_decode hdecode) hready (by simp [isAnswer]) hexec
    obtain rfl := Host.Outcome.next.inj ((run_of_atRest hatRest 2).symm.trans hrest)
    exact hrow
  | false =>
    exact run_transaction_status_mem (s := { s with inputs := [.txAnswer a, .rxAnswer r] }) hpure hready rfl hexec hrest

/-! ### Runs never stop (rule R195) -/

theorem mem_commandsIn_of_mem {p : Packet} {l : List Input} (h : .command p ∈ l) : p ∈ commandsIn l := by
  obtain ⟨before, after, rfl⟩ := List.append_of_mem h
  rw [CommandPort.commandsIn_append]
  exact List.mem_append_right _ List.mem_cons_self

/-- A step drops waiting commands at most. -/
theorem step_keeps_inputsSafe {s t : State} (hsafe : inputsSafe s) (h : step s = .next t) : inputsSafe t := by
  obtain hsame | ⟨-, p, htaken⟩ := CommandPort.step_commandsIn h
  · exact fun q hq => hsafe q (hsame ▸ hq)
  · exact fun q hq => hsafe q (htaken ▸ List.mem_cons_of_mem p hq)

/-- Only a command can stop a step, and one that is a packet does not. -/
theorem step_answers_of_inputsSafe {s : State} (hsafe : inputsSafe s) : ∃ t, step s = .next t := by
  cases htake : takeInput s s.inputs with
  | none => exact ⟨s, step_of_none htake⟩
  | some q =>
    obtain ⟨x, waiting⟩ := q
    obtain ⟨before, after, hin, -, -, -⟩ := takeInput_eq_some htake
    rw [step_of_some htake]
    cases x with
    | command p =>
      have hmem : .command p ∈ s.inputs := hin ▸ List.mem_append_right before List.mem_cons_self
      obtain ⟨e, -, he⟩ := stepInput_command_of_wf (hsafe p (mem_commandsIn_of_mem hmem)) { s with inputs := waiting }
      exact ⟨_, he⟩
    | txAnswer | rxAnswer | resetAssert | resetRelease => exact ⟨_, rfl⟩

/-- Settles O58, by induction on the number of steps: each answers and leaves the waiting commands packets. -/
theorem runsNeverStop : Obligations.RunsNeverStop := by
  intro s k hsafe
  induction k generalizing s with
  | zero => exact ⟨s, rfl⟩
  | succ k ih =>
    obtain ⟨t, ht⟩ := step_answers_of_inputsSafe hsafe
    obtain ⟨u, hu⟩ := ih t (step_keeps_inputsSafe hsafe ht)
    exact ⟨u, (run_of_next ht k).trans hu⟩

end Sys2Proof.Proofs.Exceptions
end

section
/-! PROOFS. The reset input (rules R230 to R232): its assertion is taken in any phase, and from then on its release is the only
input that the block takes. -/

namespace Sys2Proof.Proofs.ResetLine

open Sys2Proof.Machine Sys2Proof.Config Sys2Proof.Proofs.AnswerSteps

/-! ### Which inputs are taken -/

theorem inputEnabled_resetAssert {s : State} : inputEnabled s .resetAssert = true ↔ s.resetAsserted = false := by
  simp [inputEnabled]

theorem inputEnabled_resetRelease {s : State} {st : Straps} :
    inputEnabled s (.resetRelease st) = true ↔ s.resetAsserted = true := Iff.rfl

theorem ready_of_resetAsserted {s : State} (hreset : s.resetAsserted = true) : ready s = false := by
  simp [ready, hreset]

/-- Rule R230: an asserted reset holds off commands, answers and a second assertion. -/
theorem inputEnabled_of_resetAsserted {s : State} (hreset : s.resetAsserted = true) {x : Input}
    (hx : ∀ st, x ≠ .resetRelease st) : inputEnabled s x = false := by
  cases x with
  | command p => exact ready_of_resetAsserted hreset
  | txAnswer | rxAnswer | resetAssert => simp [inputEnabled, hreset]
  | resetRelease st => exact absurd rfl (hx st)

/-! ### The two edges -/

theorem step_resetAssert {s : State} {rest : List Input} (hreset : s.resetAsserted = false)
    (hin : s.inputs = .resetAssert :: rest) : step s = .next (assertReset { s with inputs := rest }) :=
  step_of_enabled hin (inputEnabled_resetAssert.mpr hreset)

theorem step_resetRelease {s : State} {st : Straps} {rest : List Input} (hreset : s.resetAsserted = true)
    (hin : s.inputs = .resetRelease st :: rest) : step s = .next (releaseReset st { s with inputs := rest }) :=
  step_of_enabled hin (inputEnabled_resetRelease.mpr hreset)

theorem ready_releaseReset (st : Straps) (s : State) : ready (releaseReset st s) = true := rfl

/-- Settles O40: the release leaves `State.resetWith`, and what stands outside the block. -/
theorem releaseOfReset : Obligations.ReleaseOfReset := fun s st rest hreset hin =>
  ⟨_, step_resetRelease hreset hin, releaseReset_eq_resetWith { s with inputs := rest } st, ready_releaseReset st _⟩

/-- Settles O41: without a release among the inputs none is enabled, so the block waits. -/
theorem assertedResetHoldsTheBlock : Obligations.AssertedResetHoldsTheBlock := fun s hreset hnone =>
  ⟨ready_of_resetAsserted hreset, CommandPort.blockWaitsForItsInput s fun _ hx =>
    inputEnabled_of_resetAsserted hreset fun st hst => hnone st (hst ▸ hx)⟩

/-- Settles O42: the assertion is enabled in every phase. -/
theorem resetIsTakenInAnyPhase : Obligations.ResetIsTakenInAnyPhase :=
  fun _ _ hreset hin => step_resetAssert hreset hin

end Sys2Proof.Proofs.ResetLine
end
